-- ==== Sys2Proof/Word.lean ====
section
/-! DEFINITION. The plain data of the machine: float components, 4-component vectors, instruction words. -/

namespace Sys2Proof

/-- One float component of a register (R80). A component has `FLEN` bits; the container is wide enough for
both formats, and with `FLEN` = 32 the value is bits 31..0 and bits 63..32 are zero (log 2). -/
abbrev Comp := BitVec 64

/-- One instruction word `W[127:0]` (R40). -/
abbrev IWord := BitVec 128

/-- One byte of a serialised instruction word or float (R32). -/
abbrev Byte := BitVec 8

/-- The number of one of the four components of a vector: 0, 1, 2, 3 (R5). -/
abbrev CIdx := Fin 4

/-- A 4-component float vector, components 0 to 3 written x, y, z, w (R5, R10). -/
structure Vec4 where
  x : Comp
  y : Comp
  z : Comp
  w : Comp
deriving DecidableEq, Repr

end Sys2Proof
end

