-- ==== Sys2Proof/Config.lean ====
section
/-! DEFINITION. What an implementation fixes (R4), and the free values the spec leaves open (R5, R221). -/

namespace Sys2Proof

/-- `FLEN`: the one float format of the whole machine (R4, R80). -/
inductive Flen where
  /-- `FLEN` = 32, IEEE-754 binary32. -/
  | f32
  /-- `FLEN` = 64, IEEE-754 binary64. -/
  | f64
deriving DecidableEq, Repr

/-- `MALFORMED_POLICY`: what a statically malformed instruction does (R4, R196). -/
inductive MalformedPolicy where
  /-- It raises a fault. -/
  | fault
  /-- It is skipped. -/
  | nop
deriving DecidableEq, Repr

/-- The implementation parameters of R4, fixed for the life of the hardware. `FLOG2` and `FEXP2` are not data:
they are the opaque constants below. -/
structure Config where
  flen : Flen
  numOut : Nat
  numTmp : Nat
  numParam : Nat
  imemSize : Nat
  arWidth : Nat
  malformedPolicy : MalformedPolicy
  rccMax : Comp
  rccMin : Comp
  litEps : Comp
deriving DecidableEq, Repr

/-- `NUM_IN`: fixed at 16 by the source, not a parameter (R4, R11). -/
abbrev numIn : Nat := 16

/-- The defaults of R4 for `FLEN` = 32, with the literals of R100. -/
def Config.default32 : Config where
  flen := .f32
  numOut := 15
  numTmp := 12
  numParam := 96
  imemSize := 128
  arWidth := 32
  malformedPolicy := .fault
  rccMax := 0x5F82C2DC
  rccMin := 0x1F7FFFFD
  litEps := 0x3727C5AC

/-- The defaults of R4 with `FLEN` = 64 instead, with the literals of R100. -/
def Config.default64 : Config :=
  { Config.default32 with
    flen := .f64
    rccMax := 0x43F0585B7858B75E
    rccMin := 0x3BEFFFFFAA96DD5B
    litEps := 0x3EE4F8B588E368F1 }

/-- The configuration a model has when none is given: `FLEN` = 32 (R4, log 1). -/
def Config.default : Config := Config.default32

/-! ### Free values

No body: a proof can use nothing about them, so what is proved holds whatever the hardware does (R5 "draw"). -/

/-- The `n`-th unspecified float component the machine draws (R171, R192), and the bits of the `n`-th generated
NaN (R82). -/
opaque Config.draw : Nat → BitVec 64

/-- The `n`-th unspecified instruction word: the instruction store after RESET (R171). -/
opaque Config.drawWord : Nat → BitVec 128

/-- The `n`-th unspecified integer, folded into the range of `AR` where it is used (R96, R171, R192). -/
opaque Config.drawInt : Nat → Int

/-- The raw log2 unit on an inexact argument: argument and answer are sort keys of floats. `flog2` bounds it to
what R97 promises (log 9). -/
opaque Config.log2Raw : Flen → Int → Int

/-- Whether the log2 unit gives `-0` where its inexact result is a zero (R97 does not say; log 9). -/
opaque Config.log2ZeroSign : Flen → Int → Bool

/-- The raw exp2 unit on an inexact argument, keys as for `log2Raw`. `fexp2` bounds it to what R98 promises
(log 10). -/
opaque Config.exp2Raw : Flen → Int → Int

end Sys2Proof
end

