-- ==== Sys2Proof/Syntax.lean ====
section
/-! DEFINITION. The instructions in decoded form (R40 to R46): one constructor for each row of the opcode map. -/

namespace Sys2Proof

/-- The four regions of the register file, in the order of their codes 0 to 3 (R43). -/
inductive Region where
  | input
  | output
  | temporary
  | parameter
deriving DecidableEq, Repr

/-- A source operand (R42): register, swizzle, negate flag, relative-addressing flag. -/
structure SrcOperand where
  region : Region
  index : BitVec 8
  swz0 : CIdx
  swz1 : CIdx
  swz2 : CIdx
  swz3 : CIdx
  neg : Bool
  rel : Bool
deriving DecidableEq, Repr

/-- A destination operand (R41): register and write mask. Bit c of `wmask` enables component c. -/
structure DstOperand where
  region : Region
  index : BitVec 8
  wmask : BitVec 4
deriving DecidableEq, Repr

/-- The 22 instructions of R46, in the order of their opcodes 0 to 21. Source operands are the source's t, u, v. -/
inductive Instr where
  /-- END, opcode 0 (R161). -/
  | endProg
  /-- MOV, opcode 1 (R110). -/
  | mov (dst : DstOperand) (t : SrcOperand)
  /-- LIT, opcode 2 (R147). -/
  | lit (dst : DstOperand) (t : SrcOperand)
  /-- RCP, opcode 3 (R140). -/
  | rcp (dst : DstOperand) (t : SrcOperand)
  /-- RSQ, opcode 4 (R142). -/
  | rsq (dst : DstOperand) (t : SrcOperand)
  /-- EXP, opcode 5 (R143). -/
  | exp (dst : DstOperand) (t : SrcOperand)
  /-- LOG, opcode 6 (R145). -/
  | log (dst : DstOperand) (t : SrcOperand)
  /-- MUL, opcode 7 (R114). -/
  | mul (dst : DstOperand) (t u : SrcOperand)
  /-- ADD, opcode 8 (R112). -/
  | add (dst : DstOperand) (t u : SrcOperand)
  /-- DP3, opcode 9 (R130). -/
  | dp3 (dst : DstOperand) (t u : SrcOperand)
  /-- DP4, opcode 10 (R131). -/
  | dp4 (dst : DstOperand) (t u : SrcOperand)
  /-- DST, opcode 11 (R133). -/
  | dst (dst : DstOperand) (t u : SrcOperand)
  /-- MIN, opcode 12 (R116). -/
  | min (dst : DstOperand) (t u : SrcOperand)
  /-- MAX, opcode 13 (R117). -/
  | max (dst : DstOperand) (t u : SrcOperand)
  /-- SLT, opcode 14 (R118). -/
  | slt (dst : DstOperand) (t u : SrcOperand)
  /-- SGE, opcode 15 (R119). -/
  | sge (dst : DstOperand) (t u : SrcOperand)
  /-- MAD, opcode 16 (R115). -/
  | mad (dst : DstOperand) (t u v : SrcOperand)
  /-- ARL, opcode 17 (R160); its destination is AR, implicitly. -/
  | arl (t : SrcOperand)
  /-- DPH, opcode 18 (R132). -/
  | dph (dst : DstOperand) (t u : SrcOperand)
  /-- RCC, opcode 19 (R141). -/
  | rcc (dst : DstOperand) (t : SrcOperand)
  /-- SUB, opcode 20 (R113). -/
  | sub (dst : DstOperand) (t u : SrcOperand)
  /-- ABS, opcode 21 (R111). -/
  | abs (dst : DstOperand) (t : SrcOperand)
deriving DecidableEq, Repr

/-- The register destination of an instruction; ARL and END have none (R46). -/
def Instr.dst? : Instr → Option DstOperand
  | .endProg => none
  | .mov d _ | .lit d _ | .rcp d _ | .rsq d _ | .exp d _ | .log d _ | .rcc d _ | .abs d _ => some d
  | .mul d _ _ | .add d _ _ | .dp3 d _ _ | .dp4 d _ _ | .dst d _ _ | .min d _ _ | .max d _ _ => some d
  | .slt d _ _ | .sge d _ _ | .dph d _ _ | .sub d _ _ => some d
  | .mad d _ _ _ => some d
  | .arl _ => none

/-- The source operands of an instruction, in the order t, u, v (R45, R46). -/
def Instr.srcs : Instr → List SrcOperand
  | .endProg => []
  | .mov _ t | .lit _ t | .rcp _ t | .rsq _ t | .exp _ t | .log _ t | .rcc _ t | .abs _ t => [t]
  | .mul _ t u | .add _ t u | .dp3 _ t u | .dp4 _ t u | .dst _ t u | .min _ t u | .max _ t u => [t, u]
  | .slt _ t u | .sge _ t u | .dph _ t u | .sub _ t u => [t, u]
  | .mad _ t u v => [t, u, v]
  | .arl t => [t]

end Sys2Proof
end

