-- ==== Sys2Proof/WellFormed.lean ====
section
/-! DEFINITION. What makes a decoded instruction legal under a configuration (R49), and what makes a configuration
legal (R4). -/

namespace Sys2Proof

/-- The values of `FAULT_CAUSE`, codes 0 to 7 in this order (R191). -/
inductive FaultCause where
  /-- NONE (0): no fault since the last RUN or RESET. -/
  | none
  /-- UNKNOWN_OPCODE (1): opcode 22 to 31. -/
  | unknownOpcode
  /-- RESERVED_NONZERO (2): a reserved bit, an unused sub-word or an unused destination field is nonzero. -/
  | reservedNonzero
  /-- DEST_REGION (3): the register destination is in Input or Parameter. -/
  | destRegion
  /-- DEST_INDEX (4): the destination index is not below the size of its region. -/
  | destIndex
  /-- SRC_REGION (5): a used source is in Output. -/
  | srcRegion
  /-- SRC_REL_REGION (6): a used source is relative and not in Parameter. -/
  | srcRelRegion
  /-- SRC_INDEX (7): a used direct source's index is not below the size of its region. -/
  | srcIndex
deriving DecidableEq, Repr

/-- The number of registers of a region (R4, R30). -/
def Config.regionSize (c : Config) : Region → Nat
  | .input => numIn
  | .output => c.numOut
  | .temporary => c.numTmp
  | .parameter => c.numParam

/-- The constraints of R4 on the parameters; a component has no bit above `FLEN` (R80). -/
def Config.wf (c : Config) : Bool :=
  decide (1 ≤ c.numOut ∧ c.numOut ≤ 256) && decide (1 ≤ c.numTmp ∧ c.numTmp ≤ 256) &&
  decide (4 ≤ c.numParam ∧ c.numParam ≤ 256) && decide (1 ≤ c.imemSize) && decide (16 ≤ c.arWidth) &&
  (match c.flen with
    | .f32 => decide (c.rccMax.toNat < 2 ^ 32 ∧ c.rccMin.toNat < 2 ^ 32 ∧ c.litEps.toNat < 2 ^ 32)
    | .f64 => true)

/-- A legal destination: Output or Temporary, index in range (R49 items 2 and 3). -/
def DstOperand.wf (c : Config) (d : DstOperand) : Bool :=
  (d.region == .output || d.region == .temporary) && decide (d.index.toNat < c.regionSize d.region)

/-- A legal source: not Output; relative only in Parameter; a direct index in range (R49 item 4). -/
def SrcOperand.wf (c : Config) (o : SrcOperand) : Bool :=
  o.region != .output &&
  (if o.rel then o.region == .parameter else decide (o.index.toNat < c.regionSize o.region))

/-- A legal instruction: its destination, if it has one, and every source are legal (R49). -/
def Instr.wf (c : Config) (i : Instr) : Bool :=
  (match i.dst? with | none => true | some d => d.wf c) && i.srcs.all (·.wf c)

end Sys2Proof
end

