-- ==== Sys2Proof/Decode.lean ====
section
/-! DEFINITION. Decoding (R40 to R49), total on all 2^128 words, the encoder beside it, and the serialised forms of
R32. -/

namespace Sys2Proof

/-- What a 128-bit word decodes to (R47). -/
inductive Decoded where
  /-- Opcode 22 to 31 (R48). -/
  | unknown
  /-- A word of opcode 0 to 21 that R47 rejects, with its cause. -/
  | malformed (c : FaultCause)
  /-- An instruction. -/
  | instr (i : Instr)
deriving DecidableEq, Repr

/-! ### Fields -/

/-- Sub-word `W0`, `S0`, `S1`, `S2` of a word for k = 0, 1, 2, 3 (R40). -/
def subWord (w : IWord) (k : Nat) : BitVec 32 := w.extractLsb' (32 * k) 32

/-- The region of a 2-bit code (R43). -/
def Region.ofCode (c : BitVec 2) : Region :=
  match c.toNat with
  | 0 => .input
  | 1 => .output
  | 2 => .temporary
  | _ => .parameter

/-- The 2-bit code of a region (R43). -/
def Region.code : Region → BitVec 2
  | .input => 0
  | .output => 1
  | .temporary => 2
  | .parameter => 3

/-- The destination operand in `W0` (R41). -/
def decodeDst (w0 : BitVec 32) : DstOperand where
  region := .ofCode (w0.extractLsb' 16 2)
  index := w0.extractLsb' 8 8
  wmask := w0.extractLsb' 18 4

/-- The source operand in a source sub-word (R42). -/
def decodeSrc (s : BitVec 32) : SrcOperand where
  region := .ofCode (s.extractLsb' 8 2)
  index := s.extractLsb' 0 8
  swz0 := (s.extractLsb' 10 2).toFin
  swz1 := (s.extractLsb' 12 2).toFin
  swz2 := (s.extractLsb' 14 2).toFin
  swz3 := (s.extractLsb' 16 2).toFin
  neg := s.getLsbD 18
  rel := s.getLsbD 19

/-- The reserved bits 7:5 and 31:22 of `W0` are zero (R41). -/
def dstReservedZero (w0 : BitVec 32) : Bool :=
  w0.extractLsb' 5 3 == 0#3 && w0.extractLsb' 22 10 == 0#10

/-- The reserved bits 31:20 of a source sub-word are zero (R42). -/
def srcReservedZero (s : BitVec 32) : Bool := s.extractLsb' 20 12 == 0#12

/-- The reserved bits of `W0` and of the used source sub-words, and every bit of the unused ones, are zero, for an
opcode of `n` sources (R45, R47). -/
def reservedZero (w : IWord) (n : Nat) : Bool :=
  dstReservedZero (subWord w 0) &&
  (if 1 ≤ n then srcReservedZero (subWord w 1) else subWord w 1 == 0#32) &&
  (if 2 ≤ n then srcReservedZero (subWord w 2) else subWord w 2 == 0#32) &&
  (if 3 ≤ n then srcReservedZero (subWord w 3) else subWord w 3 == 0#32)

/-- The destination fields `W[21:8]`, which ARL and END leave unused, are zero (R47). -/
def dstFieldsZero (w : IWord) : Bool := (subWord w 0).extractLsb' 8 14 == 0#14

/-! ### Decoding -/

/-- Answer the instruction where the reserved bits allow it, else RESERVED_NONZERO (R47). -/
def guardReserved (ok : Bool) (i : Instr) : Decoded :=
  if ok then .instr i else .malformed .reservedNonzero

/-- Decode an opcode of one source and a register destination (R46, R47). -/
def decode1 (w : IWord) (mk : DstOperand → SrcOperand → Instr) : Decoded :=
  guardReserved (reservedZero w 1) (mk (decodeDst (subWord w 0)) (decodeSrc (subWord w 1)))

/-- Decode an opcode of two sources and a register destination (R46, R47). -/
def decode2 (w : IWord) (mk : DstOperand → SrcOperand → SrcOperand → Instr) : Decoded :=
  guardReserved (reservedZero w 2)
    (mk (decodeDst (subWord w 0)) (decodeSrc (subWord w 1)) (decodeSrc (subWord w 2)))

/-- Decode an opcode of three sources and a register destination (R46, R47). -/
def decode3 (w : IWord) (mk : DstOperand → SrcOperand → SrcOperand → SrcOperand → Instr) : Decoded :=
  guardReserved (reservedZero w 3)
    (mk (decodeDst (subWord w 0)) (decodeSrc (subWord w 1)) (decodeSrc (subWord w 2)) (decodeSrc (subWord w 3)))

/-- The opcode field `W[4:0]` as a number (R41). -/
def opcodeField (w : IWord) : Nat := (w.extractLsb' 0 5).toNat

/-- The decoding procedure of R47 with the opcode numbers of R46. -/
def decode (w : IWord) : Decoded :=
  match opcodeField w with
  | 0 => guardReserved (reservedZero w 0 && dstFieldsZero w) .endProg
  | 1 => decode1 w .mov
  | 2 => decode1 w .lit
  | 3 => decode1 w .rcp
  | 4 => decode1 w .rsq
  | 5 => decode1 w .exp
  | 6 => decode1 w .log
  | 7 => decode2 w .mul
  | 8 => decode2 w .add
  | 9 => decode2 w .dp3
  | 10 => decode2 w .dp4
  | 11 => decode2 w .dst
  | 12 => decode2 w .min
  | 13 => decode2 w .max
  | 14 => decode2 w .slt
  | 15 => decode2 w .sge
  | 16 => decode3 w .mad
  | 17 => guardReserved (reservedZero w 1 && dstFieldsZero w) (.arl (decodeSrc (subWord w 1)))
  | 18 => decode2 w .dph
  | 19 => decode1 w .rcc
  | 20 => decode2 w .sub
  | 21 => decode1 w .abs
  | _ => .unknown

/-- The instruction this decoder reads from a word given as a number, numbered as spec/opcode_table.json numbers it:
bit 0 is the least significant bit of the one 128-bit word, and bits above `nbits` are zero. -/
def decodeTableWord (nbits w : Nat) : Option Instr :=
  match decode (BitVec.ofNat 128 (w % 2 ^ nbits)) with
  | .instr i => some i
  | _ => none

/-! ### The opcode table -/

/-- The (mask, match) pairs of spec/opcode_table.json in the order of the opcodes: a word selects a row exactly if
its bits under the mask are the match (30_encoding.md). -/
def opcodeRows : List (IWord × IWord) :=
  let m0 : IWord := 0xFFFFFFFFFFFFFFFFFFFFFFFFFFFFFFFF
  let m1 : IWord := 0xFFFFFFFFFFFFFFFFFFF00000FFC000FF
  let m2 : IWord := 0xFFFFFFFFFFF00000FFF00000FFC000FF
  let m3 : IWord := 0xFFF00000FFF00000FFF00000FFC000FF
  let mArl : IWord := 0xFFFFFFFFFFFFFFFFFFF00000FFFFFFFF
  [(m0, 0), (m1, 1), (m1, 2), (m1, 3), (m1, 4), (m1, 5), (m1, 6), (m2, 7), (m2, 8), (m2, 9), (m2, 10), (m2, 11),
    (m2, 12), (m2, 13), (m2, 14), (m2, 15), (m3, 16), (mArl, 17), (m2, 18), (m1, 19), (m2, 20), (m1, 21)]

/-! ### Encoding -/

/-- The opcode number of an instruction (R46). -/
def Instr.opcode : Instr → BitVec 5
  | .endProg => 0
  | .mov .. => 1
  | .lit .. => 2
  | .rcp .. => 3
  | .rsq .. => 4
  | .exp .. => 5
  | .log .. => 6
  | .mul .. => 7
  | .add .. => 8
  | .dp3 .. => 9
  | .dp4 .. => 10
  | .dst .. => 11
  | .min .. => 12
  | .max .. => 13
  | .slt .. => 14
  | .sge .. => 15
  | .mad .. => 16
  | .arl .. => 17
  | .dph .. => 18
  | .rcc .. => 19
  | .sub .. => 20
  | .abs .. => 21

/-- `W0` of an instruction with a register destination, most significant field first (R41). -/
def encodeW0 (op : BitVec 5) (d : DstOperand) : BitVec 32 :=
  (0#10 ++ d.wmask ++ d.region.code ++ d.index ++ 0#3 ++ op : BitVec (10 + 4 + 2 + 8 + 3 + 5)).cast (by rfl)

/-- `W0` of ARL and END, whose destination fields are zero (R47). -/
def encodeW0NoDst (op : BitVec 5) : BitVec 32 := (0#27 ++ op : BitVec (27 + 5)).cast (by rfl)

/-- The 2-bit field of a component number (R42). -/
def swzCode (c : CIdx) : BitVec 2 := BitVec.ofFin c

/-- A source sub-word, most significant field first (R42). -/
def encodeSrc (o : SrcOperand) : BitVec 32 :=
  (0#12 ++ BitVec.ofBool o.rel ++ BitVec.ofBool o.neg ++ swzCode o.swz3 ++ swzCode o.swz2 ++ swzCode o.swz1 ++
    swzCode o.swz0 ++ o.region.code ++ o.index : BitVec (12 + 1 + 1 + 2 + 2 + 2 + 2 + 2 + 8)).cast (by rfl)

/-- The sub-word of the `k`-th operand of a list, zero where there is none (R45). -/
def encodeSrcAt (l : List SrcOperand) (k : Nat) : BitVec 32 :=
  match l[k]? with
  | some o => encodeSrc o
  | none => 0

/-- The sub-word `W0` of an instruction (R41, R47). -/
def encodeW0Of (i : Instr) : BitVec 32 :=
  match i.dst? with
  | some d => encodeW0 i.opcode d
  | none => encodeW0NoDst i.opcode

/-- The word of an instruction (R40 to R46). -/
def encode (i : Instr) : IWord :=
  (encodeSrcAt i.srcs 2 ++ encodeSrcAt i.srcs 1 ++ encodeSrcAt i.srcs 0 ++ encodeW0Of i :
    BitVec (32 + 32 + 32 + 32)).cast (by rfl)

/-! ### Serialised forms

Little-endian, at a host's byte boundary only: nothing inside the machine has a byte order (R32). -/

/-- The `n` bytes of a value, least significant first: byte k holds bits 8k+7..8k. -/
def toBytes {w : Nat} (n : Nat) (v : BitVec w) : List Byte :=
  (List.range n).map fun k => v.extractLsb' (8 * k) 8

/-- The value whose bytes are given, least significant first. -/
def ofBytes {w : Nat} : List Byte → BitVec w
  | [] => 0
  | b :: bs => b.setWidth w ||| (ofBytes bs <<< 8)

/-- The 16 bytes of a serialised instruction word (R32). -/
def wordToBytes (w : IWord) : List Byte := toBytes 16 w

/-- The instruction word of 16 serialised bytes (R32). -/
def wordOfBytes (l : List Byte) : IWord := ofBytes l

/-- The bytes of a serialised float component: 4 with `FLEN` = 32, 8 with `FLEN` = 64 (R32). -/
def compToBytes (fl : Flen) (x : Comp) : List Byte :=
  match fl with
  | .f32 => toBytes 4 x
  | .f64 => toBytes 8 x

/-- The float component of serialised bytes (R32). -/
def compOfBytes (l : List Byte) : Comp := ofBytes l

end Sys2Proof
end

