-- ==== Sys2Proof/Machine/Float.lean ====
section
/-! DEFINITION. The float format and the arithmetic units (41_fp_units.md R80 to R96, R99, R100): each unit takes and
answers components, computes exactly on integers, and rounds once, to nearest with ties to even (R81).

`q` is always the NaN a unit answers where the rule says NaN: its sign and payload are unspecified (R82, log 7). -/

namespace Sys2Proof

/-! ### Format (R80) -/

/-- Bits of a float. -/
def Flen.bits : Flen → Nat
  | .f32 => 32
  | .f64 => 64

/-- Fraction bits. -/
def Flen.fracBits : Flen → Nat
  | .f32 => 23
  | .f64 => 52

/-- `EMAX`. -/
def Flen.emax : Flen → Int
  | .f32 => 127
  | .f64 => 1023

/-- `EMIN`. -/
def Flen.emin (fl : Flen) : Int := 1 - fl.emax

/-- The exponent of the smallest subnormal, 2^-149 or 2^-1074: every finite float is an integer times 2 to it. -/
def Flen.eulp (fl : Flen) : Int := fl.emin - fl.fracBits

/-- The bits of `+inf`: all exponent bits 1, fraction 0. -/
def Flen.infMag : Flen → Nat
  | .f32 => 0x7F800000
  | .f64 => 0x7FF0000000000000

/-- A float as its value: NaN, a signed infinity, or (-1)^neg * m * 2^e. -/
inductive FVal where
  | nan
  | inf (neg : Bool)
  | fin (neg : Bool) (m : Nat) (e : Int)
deriving DecidableEq, Repr

/-- The sign bit of a component. -/
def signOf (fl : Flen) (x : Comp) : Bool := x.getLsbD (fl.bits - 1)

/-- The bits of a component below its sign bit, as a number. On non-NaN floats it rises with the absolute value. -/
def magOf (fl : Flen) (x : Comp) : Nat := x.toNat % 2 ^ (fl.bits - 1)

/-- The component with a given sign and bits below it. -/
def ofSignMag (fl : Flen) (neg : Bool) (mag : Nat) : Comp :=
  BitVec.ofNat 64 (mag + if neg then 2 ^ (fl.bits - 1) else 0)

/-- A component is a NaN: exponent bits all 1, fraction not 0. -/
def isNan (fl : Flen) (x : Comp) : Bool := decide (fl.infMag < magOf fl x)

/-- A component is an infinity. -/
def isInf (fl : Flen) (x : Comp) : Bool := magOf fl x == fl.infMag

/-- A signed zero. -/
def fzero (fl : Flen) (neg : Bool) : Comp := ofSignMag fl neg 0

/-- A signed infinity. -/
def finf (fl : Flen) (neg : Bool) : Comp := ofSignMag fl neg fl.infMag

/-- The value of a component (R80). -/
def unpack (fl : Flen) (x : Comp) : FVal :=
  let mag := magOf fl x
  let frac := mag % 2 ^ fl.fracBits
  let ex := mag / 2 ^ fl.fracBits
  if fl.infMag < mag then .nan
  else if mag = fl.infMag then .inf (signOf fl x)
  else if ex = 0 then .fin (signOf fl x) frac fl.eulp
  else .fin (signOf fl x) (2 ^ fl.fracBits + frac) (fl.eulp + (ex - 1 : Nat))

/-! ### Rounding (R81) -/

/-- Round `m` / 2^`k` to an integer, to nearest with ties to even. `sticky` says that the true value lies strictly
between `m` and `m + 1`. -/
def roundShift (m k : Nat) (sticky : Bool) : Nat :=
  let quo := m / 2 ^ k
  let rem := 2 * (m % 2 ^ k)
  if 2 ^ k < rem then quo + 1
  else if rem = 2 ^ k then (if sticky || quo % 2 == 1 then quo + 1 else quo)
  else quo

/-- The magnitude bits of the positive real `m` * 2^`e` rounded to the format: subnormals are kept, overflow gives
infinity. With `sticky` the real lies strictly between `m` and `m + 1` times 2^`e`, and `m` must have at least two
bits more than the format's significand. -/
def roundMag (fl : Flen) (m : Nat) (e : Int) (sticky : Bool) : Nat :=
  let ulp : Int := max ((Nat.log2 m : Int) + e - fl.fracBits) fl.eulp
  let sig : Nat := if ulp ≤ e then m * 2 ^ (e - ulp).toNat else roundShift m (ulp - e).toNat sticky
  if m = 0 then 0 else min ((ulp - fl.eulp).toNat * 2 ^ fl.fracBits + sig) fl.infMag

/-- The float nearest to (-1)^neg * m * 2^e. -/
def roundFin (fl : Flen) (neg : Bool) (m : Nat) (e : Int) : Comp := ofSignMag fl neg (roundMag fl m e false)

/-- The magnitude bits of the positive real `num` / `den` * 2^`e` rounded to the format: enough quotient bits are
taken that one rounding decides. -/
def roundQuot (fl : Flen) (num den : Nat) (e : Int) : Nat :=
  let k := fl.fracBits + 4 + Nat.log2 den
  roundMag fl (num * 2 ^ k / den) (e - k) (num * 2 ^ k % den != 0)

/-- The integer `k` as a float, exact for every integer that fits in a significand; 0 is `+0`. -/
def intFloat (fl : Flen) (k : Int) : Comp := roundFin fl (decide (k < 0)) k.natAbs 0

/-- 2^`k` as a float; `+inf` above `EMAX`. -/
def pow2Float (fl : Flen) (k : Int) : Comp := roundFin fl false 1 k

/-- The float 1.0. -/
def fone (fl : Flen) : Comp := pow2Float fl 0

/-- `CONST` of the decimal literal `num` / `den` (R100). -/
def fconst (fl : Flen) (num den : Nat) : Comp := ofSignMag fl false (roundQuot fl num den 0)

/-! ### Sign (R83, R84) -/

/-- `FNEG`: the sign bit inverted, every other bit unchanged (R83). -/
def fneg (fl : Flen) (a : Comp) : Comp := a ^^^ (1#64 <<< (fl.bits - 1))

/-- `FABS`: the sign bit cleared, every other bit unchanged (R84). -/
def fabs (fl : Flen) (a : Comp) : Comp := a &&& ~~~(1#64 <<< (fl.bits - 1))

/-! ### Add and multiply (R85 to R87) -/

/-- (-1)^neg * m as an integer. -/
def signed (neg : Bool) (m : Nat) : Int := if neg then -(m : Int) else m

/-- The sum of two finite values, exact, then rounded. An exact zero is `-0` only for `-0 + -0` (R85). -/
def addFin (fl : Flen) (n1 : Bool) (m1 : Nat) (e1 : Int) (n2 : Bool) (m2 : Nat) (e2 : Int) : Comp :=
  let e := min e1 e2
  let s := signed n1 (m1 * 2 ^ (e1 - e).toNat) + signed n2 (m2 * 2 ^ (e2 - e).toNat)
  if s = 0 then fzero fl (n1 && n2) else roundFin fl (decide (s < 0)) s.natAbs e

/-- `FADD` (R85). -/
def fadd (fl : Flen) (q a b : Comp) : Comp :=
  match unpack fl a, unpack fl b with
  | .nan, _ => q
  | _, .nan => q
  | .inf n1, .inf n2 => if n1 = n2 then finf fl n1 else q
  | .inf n1, .fin _ _ _ => finf fl n1
  | .fin _ _ _, .inf n2 => finf fl n2
  | .fin n1 m1 e1, .fin n2 m2 e2 => addFin fl n1 m1 e1 n2 m2 e2

/-- `FSUB(a, b) = FADD(a, FNEG(b))` (R86). -/
def fsub (fl : Flen) (q a b : Comp) : Comp := fadd fl q a (fneg fl b)

/-- `FMUL` (R87). -/
def fmul (fl : Flen) (q a b : Comp) : Comp :=
  match unpack fl a, unpack fl b with
  | .nan, _ => q
  | _, .nan => q
  | .inf n1, .inf n2 => finf fl (n1 != n2)
  | .inf n1, .fin n2 m2 _ => if m2 = 0 then q else finf fl (n1 != n2)
  | .fin n1 m1 _, .inf n2 => if m1 = 0 then q else finf fl (n1 != n2)
  | .fin n1 m1 e1, .fin n2 m2 e2 => roundFin fl (n1 != n2) (m1 * m2) (e1 + e2)

/-! ### Reciprocal and square root (R88 to R90) -/

/-- `FRCP`: the correctly rounded `1.0 / a` (R88). -/
def frcp (fl : Flen) (q a : Comp) : Comp :=
  match unpack fl a with
  | .nan => q
  | .inf n => fzero fl n
  | .fin n m e => if m = 0 then finf fl n else ofSignMag fl n (roundQuot fl 1 m (-e))

/-- The bits of the integer square root of `v` from bit `b - 1` down, above the root `r` found so far. -/
def isqrtFrom (v : Nat) : Nat → Nat → Nat
  | 0, r => r
  | b + 1, r => isqrtFrom v b (if (r + 2 ^ b) * (r + 2 ^ b) ≤ v then r + 2 ^ b else r)

/-- The integer square root. -/
def isqrt (v : Nat) : Nat := isqrtFrom v (Nat.log2 v / 2 + 1) 0

/-- `FSQRT`: the correctly rounded square root (R89). -/
def fsqrt (fl : Flen) (q a : Comp) : Comp :=
  match unpack fl a with
  | .nan => q
  | .inf n => if n then q else finf fl false
  | .fin n m e =>
    if m = 0 then fzero fl n
    else if n then q
    else
      let odd : Nat := (e % 2).toNat
      let v := m * 2 ^ odd * 4 ^ (fl.fracBits + 3)
      let r := isqrt v
      ofSignMag fl false (roundMag fl r ((e - odd) / 2 - ((fl.fracBits : Int) + 3)) (r * r != v))

/-- `FRSQ(a) = FRCP(FSQRT(FABS(a)))` (R90). -/
def frsq (fl : Flen) (q a : Comp) : Comp := frcp fl q (fsqrt fl q (fabs fl a))

/-! ### Comparison, minimum, maximum (R91 to R94) -/

/-- The sort key of a component: it orders the non-NaN floats as extended reals, both zeros 0 (R91). -/
def sortKey (fl : Flen) (x : Comp) : Int := signed (signOf fl x) (magOf fl x)

/-- The component with a given sort key; 0 gives `+0`. -/
def ofSortKey (fl : Flen) (k : Int) : Comp := ofSignMag fl (decide (k < 0)) k.natAbs

/-- `FLT(a, b)`: neither is NaN and `a < b` (R91). -/
def flt (fl : Flen) (a b : Comp) : Bool := !isNan fl a && !isNan fl b && decide (sortKey fl a < sortKey fl b)

/-- `FGT(a, b) = FLT(b, a)` (R91). -/
def fgt (fl : Flen) (a b : Comp) : Bool := flt fl b a

/-- `FGE(a, b)`: neither is NaN and `a >= b` (R91). -/
def fge (fl : Flen) (a b : Comp) : Bool := !isNan fl a && !isNan fl b && decide (sortKey fl b ≤ sortKey fl a)

/-- `FEQ(a, b)`: neither is NaN and `a = b` (R91). -/
def feq (fl : Flen) (a b : Comp) : Bool := !isNan fl a && !isNan fl b && decide (sortKey fl a = sortKey fl b)

/-- `FMIN(a, b) = FLT(a, b) ? a : b` (R92). -/
def fmin (fl : Flen) (a b : Comp) : Comp := if flt fl a b then a else b

/-- `FMAX(a, b) = FGT(a, b) ? a : b` (R93). -/
def fmax (fl : Flen) (a b : Comp) : Comp := if fgt fl a b then a else b

/-- `CLAMP_LO(a, lo) = FLT(a, lo) ? lo : a`: a NaN `a` passes through (R94). -/
def clampLo (fl : Flen) (a lo : Comp) : Comp := if flt fl a lo then lo else a

/-- `CLAMP_HI(a, hi) = FGT(a, hi) ? hi : a`: a NaN `a` passes through (R94). -/
def clampHi (fl : Flen) (a hi : Comp) : Comp := if fgt fl a hi then hi else a

/-! ### Floor, integers, split (R95, R96, R99) -/

/-- The largest integer not greater than (-1)^neg * m * 2^e. -/
def floorInt (neg : Bool) (m : Nat) (e : Int) : Int :=
  if 0 ≤ e then signed neg (m * 2 ^ e.toNat) else signed neg m / 2 ^ (-e).toNat

/-- (-1)^neg * m * 2^e is an integer. -/
def isIntegral (m : Nat) (e : Int) : Bool := decide (0 ≤ e) || m % 2 ^ (-e).toNat == 0

/-- `FFLOOR`: the largest integral float not greater than `a`; integral floats, zeros and infinities are answered as
they are (R95). -/
def ffloor (fl : Flen) (q a : Comp) : Comp :=
  match unpack fl a with
  | .nan => q
  | .inf _ => a
  | .fin n m e => if isIntegral m e then a else intFloat fl (floorInt n m e)

/-- A value is in the range of an Address register of `w` bits (R16). -/
def inArRange (w : Nat) (k : Int) : Bool := decide (-(2 : Int) ^ (w - 1) ≤ k ∧ k ≤ (2 : Int) ^ (w - 1) - 1)

/-- `F2I` of an integral float; `none` where R96 leaves the result unspecified: NaN, an infinity, out of range. -/
def f2i (fl : Flen) (w : Nat) (a : Comp) : Option Int :=
  match unpack fl a with
  | .nan => none
  | .inf _ => none
  | .fin n m e => if inArRange w (floorInt n m e) then some (floorInt n m e) else none

/-- The exponent of `FSPLIT`: the integer k with 2^k <= m * 2^e < 2^(k+1) (R99). -/
def splitExp (m : Nat) (e : Int) : Int := (Nat.log2 m : Int) + e

/-- The mantissa of `FSPLIT`, in [1, 2) (R99). -/
def splitMant (fl : Flen) (m : Nat) : Comp := roundFin fl false m (-(Nat.log2 m : Int))

end Sys2Proof
end

