-- ==== Sys2Proof/Machine/State.lean ====
section
/-! DEFINITION. The state of the machine (10_state.md), the stops of a step, and the state after reset. -/

namespace Sys2Proof.Machine

/-- `STATUS` (R18), encoded 0, 1, 2 in this order. -/
inductive Status where
  | halted
  | running
  | faulted
deriving DecidableEq, Repr

/-- The instruction store as (index, word) pairs (R23). Canonical form: indices strictly rising, no entry equal to
what an unlisted index reads as (`Memory.wf`). -/
abbrev Memory := List (Nat × IWord)

/-- What an unlisted entry of the instruction store reads as: the all-zero word (log 4). The spec leaves the
contents after RESET unspecified (R210) and no fetch reaches an entry the host has not written (R31). -/
def Memory.unlisted : IWord := 0

/-- Indices rise strictly, each above `lo`. -/
def Memory.risesFrom : Nat → Memory → Bool
  | _, [] => true
  | lo, (i, _) :: m => decide (lo ≤ i) && Memory.risesFrom (i + 1) m

/-- The canonical form of the instruction store. -/
def Memory.wf (m : Memory) : Bool := Memory.risesFrom 0 m && m.all fun p => p.2 != Memory.unlisted

/-- `transformKind` of a tracked-matrix binding (R175). -/
inductive TransformKind where
  | none
  | identity
  | inverse
  | transpose
  | inverseTranspose
deriving DecidableEq, Repr

/-- One binding of LOAD_MATRICES (R175): `{paramBlockIndex b, sourceMatrix M, inverse MINV, transformKind}`. -/
structure Binding where
  block : Int
  m : Vector Comp 16
  minv : Vector Comp 16
  kind : TransformKind
deriving DecidableEq, Repr

/-- The eight host commands with their arguments (R171 to R179). -/
inductive HostCommand where
  | reset
  | loadProgram (words : List IWord)
  | writeParam (i : Int) (v : Vec4)
  | loadMatrices (bindings : List Binding)
  | init (attrs : Vector Vec4 16)
  | run
  | readOutput (i : Int)
  | readStatus
deriving DecidableEq, Repr

/-- What the host does at one step: it stays silent, or it issues a command (log 12). -/
inductive HostMove where
  | silent
  | issue (c : HostCommand)
deriving DecidableEq, Repr

/-- What the last host command returned (R170 (c), R178, R179). -/
inductive HostReply where
  /-- No command yet. -/
  | none
  /-- The command was accepted and returns nothing. -/
  | accepted
  /-- The command was refused: it changed no state (R170). -/
  | refused
  /-- The result of READ_OUTPUT (R178). -/
  | output (v : Vec4)
  /-- The result of READ_STATUS: `(STATUS, ip, PROG_LEN, FAULT_CAUSE, FAULT_IP)` as codes (R179). -/
  | status (status ip progLen faultCause faultIp : Nat)
deriving DecidableEq, Repr

/-- The state: every element of the table of 10_state.md section 1, then the model's own three fields. -/
structure State where
  /-- The parameters of R4. Nothing writes it. -/
  cfg : Config
  /-- `Input[0..15]` (R11). -/
  input : List Vec4
  /-- `Output[0..NUM_OUT-1]` (R12). -/
  output : List Vec4
  /-- `Temporary[0..NUM_TMP-1]` (R13). -/
  temporary : List Vec4
  /-- `Parameter[0..NUM_PARAM-1]` (R14). -/
  parameter : List Vec4
  /-- `AR`, the signed integer it stands for (R16). -/
  ar : Int
  /-- `ip` (R17). -/
  ip : Nat
  /-- `STATUS` (R18). -/
  status : Status
  /-- `PROG_LEN` (R19). -/
  progLen : Nat
  /-- `FAULT_CAUSE` (R20). -/
  faultCause : FaultCause
  /-- `FAULT_IP` (R21). -/
  faultIp : Nat
  /-- `IMEM` (R23). -/
  imem : Memory
  /-- The model's own: how many unspecified values have been drawn (log 6). -/
  draws : Nat
  /-- The model's own: the host's coming moves, the next first; after the last the host is silent (log 12). -/
  pending : List HostMove
  /-- The model's own: what the last host command returned (log 12). -/
  reply : HostReply
deriving DecidableEq, Repr

/-- Why a step answers no next state. Neither is a fault of the hardware: a hardware fault (R192) is a next state
with STATUS = FAULTED. -/
inductive Fault where
  /-- Raised by `step` when STATUS = HALTED and the host has no move left: the dispatcher has no step (R60). Safe:
  the machine rests where it is. -/
  | restHalted
  /-- Raised by `step` when STATUS = FAULTED and the host has no move left: the dispatcher has no step (R193).
  Safe: the machine rests where it is. -/
  | restFaulted (cause : FaultCause)
deriving DecidableEq, Repr

/-- Why an instruction has no meaning. No arm of `exec` and no meaning answers it. -/
inductive Refusal where
  /-- Raised by an arm of `exec` whose instruction has no meaning yet. Safe. -/
  | notModelled (mnemonic : String)
deriving DecidableEq, Repr

/-- The vector the model gives a register whose reset value the spec leaves unspecified (log 3). -/
def resetVec : Vec4 := ⟨0, 0, 0, 0⟩

/-- The machine right after RESET (R171, R210) with a given configuration. -/
def State.resetOf (c : Config) : State where
  cfg := c
  input := List.replicate numIn resetVec
  output := List.replicate c.numOut resetVec
  temporary := List.replicate c.numTmp resetVec
  parameter := List.replicate c.numParam resetVec
  ar := 0
  ip := 0
  status := .halted
  progLen := 0
  faultCause := .none
  faultIp := 0
  imem := []
  draws := 0
  pending := []
  reply := .none

/-- The machine right after reset, with the default configuration of R4. -/
def State.reset : State := State.resetOf Config.default

end Sys2Proof.Machine
end

