-- ==== Sys2Proof/Machine/Ops.lean ====
section
/-! DEFINITION. The named operations over the instruction store, the registers, the free values, and the entry of a
fault (20_memory.md, 40_execution_model.md, 60_exceptions.md). -/

namespace Sys2Proof

/-- Component `c` of a vector (R5). -/
def Vec4.get (v : Vec4) (c : CIdx) : Comp :=
  match c with
  | 0 => v.x
  | 1 => v.y
  | 2 => v.z
  | 3 => v.w

/-- The vector whose component `c` is `f c`. -/
def Vec4.ofFn (f : CIdx → Comp) : Vec4 := ⟨f 0, f 1, f 2, f 3⟩

/-- The vector with the same scalar in all four components (R69). -/
def Vec4.splat (s : Comp) : Vec4 := ⟨s, s, s, s⟩

/-- `(+0, +0, +0, +0)`: what an out-of-range relative fetch reads (R64). -/
def Vec4.zero : Vec4 := ⟨0, 0, 0, 0⟩

/-- A value cut to `FLEN` bits (R80). -/
def Comp.fit (fl : Flen) (x : Comp) : Comp := BitVec.ofNat 64 (x.toNat % 2 ^ fl.bits)

/-- A vector with each component cut to `FLEN` bits: what reaches the machine of a host's argument (R170 (d),
log 17). -/
def Vec4.fit (fl : Flen) (v : Vec4) : Vec4 :=
  ⟨Comp.fit fl v.x, Comp.fit fl v.y, Comp.fit fl v.z, Comp.fit fl v.w⟩

/-- `(+0, +0, +0, 1.0)`: what INIT gives Output and Temporary registers (R15, R176). -/
def initVec (fl : Flen) : Vec4 := ⟨fzero fl false, fzero fl false, fzero fl false, fone fl⟩

end Sys2Proof

namespace Sys2Proof.Machine

/-! ### The instruction store (R23, R31) -/

/-- The word at an index of the instruction store. -/
def Memory.read : Memory → Nat → IWord
  | [], _ => Memory.unlisted
  | (j, w) :: m, i => if i = j then w else if i < j then Memory.unlisted else Memory.read m i

/-- The store with one word written, in canonical form: writing what an unlisted index reads as removes the entry. -/
def Memory.write : Memory → Nat → IWord → Memory
  | [], i, v => if v = Memory.unlisted then [] else [(i, v)]
  | (j, w) :: m, i, v =>
    if i < j then (if v = Memory.unlisted then (j, w) :: m else (i, v) :: (j, w) :: m)
    else if i = j then (if v = Memory.unlisted then m else (i, v) :: m)
    else (j, w) :: Memory.write m i v

/-- The store with consecutive words written from an index on (R172). -/
def Memory.writeFrom (m : Memory) (i : Nat) : List IWord → Memory
  | [] => m
  | w :: ws => Memory.writeFrom (Memory.write m i w) (i + 1) ws

/-! ### The register file (R10 to R14) -/

/-- The registers of a region. -/
def State.region (s : State) : Region → List Vec4
  | .input => s.input
  | .output => s.output
  | .temporary => s.temporary
  | .parameter => s.parameter

/-- Register `i` of a region. An index the region does not have reads as the zero vector; no legal direct operand
has one (R49, log 16). -/
def State.readReg (s : State) (r : Region) (i : Nat) : Vec4 := (s.region r).getD i Vec4.zero

/-- Register `i` of a region written whole. An index the region does not have changes nothing (R35, log 16). -/
def State.writeReg (s : State) (r : Region) (i : Nat) (v : Vec4) : State :=
  match r with
  | .input => { s with input := s.input.set i v }
  | .output => { s with output := s.output.set i v }
  | .temporary => { s with temporary := s.temporary.set i v }
  | .parameter => { s with parameter := s.parameter.set i v }

/-! ### Free values (R5, R82, log 6, log 7) -/

/-- The `n`-th unspecified component. -/
def drawComp (fl : Flen) (n : Nat) : Comp := Comp.fit fl (Config.draw n)

/-- Four unspecified components, from the `n`-th on. -/
def drawVec (fl : Flen) (n : Nat) : Vec4 :=
  ⟨drawComp fl n, drawComp fl (n + 1), drawComp fl (n + 2), drawComp fl (n + 3)⟩

/-- `k` unspecified registers, from the `n`-th component on. -/
def drawRegs (fl : Flen) (n k : Nat) : List Vec4 := (List.range k).map fun i => drawVec fl (n + 4 * i)

/-- The `n`-th unspecified value of the range of an Address register of `w` bits (R96, log 8). -/
def drawAr (w n : Nat) : Int := (Config.drawInt n).bmod (2 ^ w)

/-- The `n`-th generated NaN: sign and fraction are drawn, a fraction of 0 (which would be an infinity) is replaced
by the highest fraction bit (R82, log 7). -/
def drawNan (fl : Flen) (n : Nat) : Comp :=
  let d := Config.draw n
  let frac := d.toNat % 2 ^ fl.fracBits
  ofSignMag fl (d.getLsbD 63) (fl.infMag + if frac = 0 then 2 ^ (fl.fracBits - 1) else frac)

/-- How many unspecified values one register-writing instruction sets aside: one NaN for each result component. -/
def drawsPerInstr : Nat := 4

/-- The generated NaN of result component `i` of the instruction a state is about to run. -/
def nanFor (s : State) (i : Nat) : Comp := drawNan s.cfg.flen (s.draws + i)

/-! ### Sequencing and faults -/

/-- `ip <- ip + 1`, the end of every instruction but END (R60). -/
def State.advance (s : State) : State := { s with ip := s.ip + 1 }

/-- The unspecified values set aside for this instruction are used up. -/
def State.spend (s : State) (k : Nat) : State := { s with draws := s.draws + k }

/-- How many unspecified components a fault entry draws (R192). -/
def faultDraws (c : Config) : Nat := 4 * (c.numOut + c.numTmp) + 1

/-- `raise Fault(c)` (R192): the cause and the index of the faulting instruction are recorded, STATUS becomes
FAULTED, and Output, Temporary and `AR` become unspecified. `ip`, Input, Parameter, the instruction store and
`PROG_LEN` are kept. The machine has no handler and no return from a fault (R193, R199). -/
def raiseFault (c : FaultCause) (s : State) : State :=
  { s with
    faultCause := c
    faultIp := s.ip
    status := .faulted
    output := drawRegs s.cfg.flen s.draws s.cfg.numOut
    temporary := drawRegs s.cfg.flen (s.draws + 4 * s.cfg.numOut) s.cfg.numTmp
    ar := drawAr s.cfg.arWidth (s.draws + 4 * (s.cfg.numOut + s.cfg.numTmp))
    draws := s.draws + faultDraws s.cfg }

/-- `malformed(c)` (R196): a fault, or a skipped instruction, by `MALFORMED_POLICY`. -/
def malformed (c : FaultCause) (s : State) : State :=
  match s.cfg.malformedPolicy with
  | .fault => raiseFault c s
  | .nop => s.advance

end Sys2Proof.Machine
end

