-- ==== Sys2Proof/Machine/Operands.lean ====
section
/-! DEFINITION. Operand fetch (R64 to R67), write-back (R68, R69), the static checks of operands (R49), and the three
shapes every register-writing instruction has (R61). -/

namespace Sys2Proof.Machine

/-! ### Operand fetch -/

/-- `resolve(op)` (R64): the register an operand names; relative operands add `AR` without wrap-around, and read the
zero vector outside the Parameter region. -/
def resolve (s : State) (o : SrcOperand) : Vec4 :=
  if o.rel then
    let e : Int := (o.index.toNat : Int) + s.ar
    if e < 0 ∨ (s.cfg.numParam : Int) ≤ e then Vec4.zero else s.readReg .parameter e.toNat
  else s.readReg o.region o.index.toNat

/-- The swizzle: component i of the result is component `swz i` of the register (R65). -/
def swizzle (o : SrcOperand) (v : Vec4) : Vec4 := ⟨v.get o.swz0, v.get o.swz1, v.get o.swz2, v.get o.swz3⟩

/-- The negate flag: the sign of all four components or of none (R66). -/
def negate (fl : Flen) (o : SrcOperand) (v : Vec4) : Vec4 :=
  if o.neg then ⟨fneg fl v.x, fneg fl v.y, fneg fl v.z, fneg fl v.w⟩ else v

/-- `FetchVector4` (R64 to R66). -/
def fetchVector4 (s : State) (o : SrcOperand) : Vec4 := negate s.cfg.flen o (swizzle o (resolve s o))

/-- `FetchVector1` (R67): component 0 of `FetchVector4`. -/
def fetchVector1 (s : State) (o : SrcOperand) : Comp := (fetchVector4 s o).x

/-! ### Write-back -/

/-- The components a write mask enables come from `new`, the others from `old` (R68). -/
def maskMerge (mask : BitVec 4) (old new : Vec4) : Vec4 :=
  ⟨if mask.getLsbD 0 then new.x else old.x, if mask.getLsbD 1 then new.y else old.y,
    if mask.getLsbD 2 then new.z else old.z, if mask.getLsbD 3 then new.w else old.w⟩

/-- `StoreVector4` (R68). -/
def storeVector4 (d : DstOperand) (r : Vec4) (s : State) : State :=
  s.writeReg d.region d.index.toNat (maskMerge d.wmask (s.readReg d.region d.index.toNat) r)

/-! ### Static checks (R49, R197) -/

/-- The checks on a register destination, in order: DEST_REGION, DEST_INDEX. -/
def checkDst (c : Config) (d : DstOperand) : FaultCause :=
  match d.region with
  | .input => .destRegion
  | .parameter => .destRegion
  | .output => if c.regionSize .output ≤ d.index.toNat then .destIndex else .none
  | .temporary => if c.regionSize .temporary ≤ d.index.toNat then .destIndex else .none

/-- The checks on a used source, in order: SRC_REGION, SRC_REL_REGION, SRC_INDEX. -/
def checkSrc (c : Config) (o : SrcOperand) : FaultCause :=
  if o.region = .output then .srcRegion
  else if o.rel = true ∧ o.region ≠ .parameter then .srcRelRegion
  else if o.rel = false ∧ c.regionSize o.region ≤ o.index.toNat then .srcIndex
  else .none

/-- The first cause, in operand order, that is not NONE. -/
def firstCause : List FaultCause → FaultCause
  | [] => .none
  | .none :: l => firstCause l
  | c :: _ => c

/-- The checks on the destination, if there is one, then on the sources in order (R49); NONE where all pass. -/
def checkOperands (c : Config) (dst : Option DstOperand) (srcs : List SrcOperand) : FaultCause :=
  firstCause ((match dst with | none => [] | some d => [checkDst c d]) ++ srcs.map (checkSrc c))

/-- `static_check(d)` (R49, R60). -/
def staticCheck (c : Config) (i : Instr) : FaultCause := checkOperands c i.dst? i.srcs

/-! ### Instruction shapes (R61)

`compute` gets the configuration, the generated NaN of each result component, and the fetched operands. All operands
are fetched from the state before any register is written. -/

/-- Run `effect` where the operands pass the static checks, else treat the instruction as malformed (R60, log 18). -/
def checked (dst : Option DstOperand) (srcs : List SrcOperand) (s : State) (effect : State → State) :
    Host.Outcome State Fault Refusal :=
  match checkOperands s.cfg dst srcs with
  | .none => .next (effect s)
  | c => .next (malformed c s)

/-- Write a result vector under the write mask and go on to the next instruction (R61, R68, R70). -/
def writeResult (d : DstOperand) (r : Vec4) (s : State) : State := ((storeVector4 d r s).spend drawsPerInstr).advance

/-- An instruction of one scalar source and a register destination (R67). -/
def scalarOp (d : DstOperand) (t : SrcOperand) (s : State) (compute : Config → (Nat → Comp) → Comp → Vec4) :
    Host.Outcome State Fault Refusal :=
  checked (some d) [t] s fun s => writeResult d (compute s.cfg (nanFor s) (fetchVector1 s t)) s

/-- An instruction of one vector source and a register destination. -/
def unaryOp (d : DstOperand) (t : SrcOperand) (s : State) (compute : Config → (Nat → Comp) → Vec4 → Vec4) :
    Host.Outcome State Fault Refusal :=
  checked (some d) [t] s fun s => writeResult d (compute s.cfg (nanFor s) (fetchVector4 s t)) s

/-- An instruction of two vector sources and a register destination. -/
def binaryOp (d : DstOperand) (t u : SrcOperand) (s : State)
    (compute : Config → (Nat → Comp) → Vec4 → Vec4 → Vec4) : Host.Outcome State Fault Refusal :=
  checked (some d) [t, u] s fun s =>
    writeResult d (compute s.cfg (nanFor s) (fetchVector4 s t) (fetchVector4 s u)) s

/-- An instruction of three vector sources and a register destination. -/
def ternaryOp (d : DstOperand) (t u v : SrcOperand) (s : State)
    (compute : Config → (Nat → Comp) → Vec4 → Vec4 → Vec4 → Vec4) : Host.Outcome State Fault Refusal :=
  checked (some d) [t, u, v] s fun s =>
    writeResult d (compute s.cfg (nanFor s) (fetchVector4 s t) (fetchVector4 s u) (fetchVector4 s v)) s

end Sys2Proof.Machine
end

