-- ==== Sys2Proof/Machine/AddressEnd.lean ====
section
/-! DEFINITION. ARL and END (45_address_end.md R160, R161). -/

namespace Sys2Proof.Machine

/-- The value ARL gives `AR`: the floor of the operand, or an unspecified value of the range of `AR` where the floor
does not fit (R96, R160, log 8). -/
def arlValue (s : State) (a : Comp) : Int :=
  (f2i s.cfg.flen s.cfg.arWidth (ffloor s.cfg.flen (nanFor s 0) a)).getD (drawAr s.cfg.arWidth s.draws)

/-- Write `AR` and go on to the next instruction (R160). -/
def writeAr (v : Int) (s : State) : State := ((State.spend { s with ar := v } drawsPerInstr)).advance

/-- ARL (R160). -/
def execArl (t : SrcOperand) (s : State) : Host.Outcome State Fault Refusal :=
  checked none [t] s fun s => writeAr (arlValue s (fetchVector1 s t)) s

/-- END (R161): the dispatcher halts, and `ip` keeps the index of this END. -/
def execEnd (s : State) : Host.Outcome State Fault Refusal := .next { s with status := .halted }

end Sys2Proof.Machine
end

