-- ==== Sys2Proof/Machine/Flags.lean ====
section
/-! DEFINITION. The machine has no flag, no condition code and no floating-point status (R22, R81). What stands in
their place is the float a comparison writes into an ordinary register (R118, R119). -/

namespace Sys2Proof

/-- The float a comparison instruction writes: `1.0` for true, `+0` for false. -/
def boolFloat (fl : Flen) (b : Bool) : Comp := if b then fone fl else fzero fl false

end Sys2Proof
end

