-- ==== Sys2Proof/Machine/Componentwise.lean ====
section
/-! DEFINITION. The ten instructions that compute each component from the same-numbered components (42_componentwise.md
R110 to R120). Each has a value function, the `compute` of R61, and a meaning. -/

namespace Sys2Proof

/-- MOV: `r = t` (R110). -/
def movVec (_ : Config) (_ : Nat → Comp) (t : Vec4) : Vec4 := t

/-- ABS: `r[i] = FABS(t[i])` (R111). -/
def absVec (c : Config) (_ : Nat → Comp) (t : Vec4) : Vec4 := .ofFn fun i => fabs c.flen (t.get i)

/-- ADD: `r[i] = FADD(t[i], u[i])` (R112). -/
def addVec (c : Config) (q : Nat → Comp) (t u : Vec4) : Vec4 := .ofFn fun i => fadd c.flen (q i) (t.get i) (u.get i)

/-- SUB: `r[i] = FSUB(t[i], u[i])` (R113). -/
def subVec (c : Config) (q : Nat → Comp) (t u : Vec4) : Vec4 := .ofFn fun i => fsub c.flen (q i) (t.get i) (u.get i)

/-- MUL: `r[i] = FMUL(t[i], u[i])` (R114). -/
def mulVec (c : Config) (q : Nat → Comp) (t u : Vec4) : Vec4 := .ofFn fun i => fmul c.flen (q i) (t.get i) (u.get i)

/-- MAD: `r[i] = FADD(FMUL(t[i], u[i]), v[i])`, two roundings (R115). -/
def madVec (c : Config) (q : Nat → Comp) (t u v : Vec4) : Vec4 :=
  .ofFn fun i => fadd c.flen (q i) (fmul c.flen (q i) (t.get i) (u.get i)) (v.get i)

/-- MIN: `r[i] = FMIN(t[i], u[i])` (R116). -/
def minVec (c : Config) (_ : Nat → Comp) (t u : Vec4) : Vec4 := .ofFn fun i => fmin c.flen (t.get i) (u.get i)

/-- MAX: `r[i] = FMAX(t[i], u[i])` (R117). -/
def maxVec (c : Config) (_ : Nat → Comp) (t u : Vec4) : Vec4 := .ofFn fun i => fmax c.flen (t.get i) (u.get i)

/-- SLT: `r[i] = FLT(t[i], u[i]) ? 1.0 : +0` (R118). -/
def sltVec (c : Config) (_ : Nat → Comp) (t u : Vec4) : Vec4 :=
  .ofFn fun i => boolFloat c.flen (flt c.flen (t.get i) (u.get i))

/-- SGE: `r[i] = FGE(t[i], u[i]) ? 1.0 : +0` (R119). -/
def sgeVec (c : Config) (_ : Nat → Comp) (t u : Vec4) : Vec4 :=
  .ofFn fun i => boolFloat c.flen (fge c.flen (t.get i) (u.get i))

end Sys2Proof

namespace Sys2Proof.Machine

/-- MOV (R110). -/
def execMov (d : DstOperand) (t : SrcOperand) (s : State) : Host.Outcome State Fault Refusal := unaryOp d t s movVec

/-- ABS (R111). -/
def execAbs (d : DstOperand) (t : SrcOperand) (s : State) : Host.Outcome State Fault Refusal := unaryOp d t s absVec

/-- ADD (R112). -/
def execAdd (d : DstOperand) (t u : SrcOperand) (s : State) : Host.Outcome State Fault Refusal :=
  binaryOp d t u s addVec

/-- SUB (R113). -/
def execSub (d : DstOperand) (t u : SrcOperand) (s : State) : Host.Outcome State Fault Refusal :=
  binaryOp d t u s subVec

/-- MUL (R114). -/
def execMul (d : DstOperand) (t u : SrcOperand) (s : State) : Host.Outcome State Fault Refusal :=
  binaryOp d t u s mulVec

/-- MAD (R115). -/
def execMad (d : DstOperand) (t u v : SrcOperand) (s : State) : Host.Outcome State Fault Refusal :=
  ternaryOp d t u v s madVec

/-- MIN (R116). -/
def execMin (d : DstOperand) (t u : SrcOperand) (s : State) : Host.Outcome State Fault Refusal :=
  binaryOp d t u s minVec

/-- MAX (R117). -/
def execMax (d : DstOperand) (t u : SrcOperand) (s : State) : Host.Outcome State Fault Refusal :=
  binaryOp d t u s maxVec

/-- SLT (R118). -/
def execSlt (d : DstOperand) (t u : SrcOperand) (s : State) : Host.Outcome State Fault Refusal :=
  binaryOp d t u s sltVec

/-- SGE (R119). -/
def execSge (d : DstOperand) (t u : SrcOperand) (s : State) : Host.Outcome State Fault Refusal :=
  binaryOp d t u s sgeVec

end Sys2Proof.Machine
end

