-- ==== Sys2Proof/Machine/DotProducts.lean ====
section
/-! DEFINITION. Dot products and the distance vector (43_dot_products.md R130 to R133): each product is rounded, and
the sum is rounded from left to right. -/

namespace Sys2Proof

/-- The sum of the first three products, from left to right (R130). -/
def dot3 (fl : Flen) (q : Comp) (t u : Vec4) : Comp :=
  fadd fl q (fadd fl q (fmul fl q t.x u.x) (fmul fl q t.y u.y)) (fmul fl q t.z u.z)

/-- DP3 (R130). -/
def dp3Vec (c : Config) (q : Nat → Comp) (t u : Vec4) : Vec4 := .splat (dot3 c.flen (q 0) t u)

/-- DP4 (R131). -/
def dp4Vec (c : Config) (q : Nat → Comp) (t u : Vec4) : Vec4 :=
  .splat (fadd c.flen (q 0) (dot3 c.flen (q 0) t u) (fmul c.flen (q 0) t.w u.w))

/-- DPH: `t[3]` is ignored, `u[3]` is added as it is (R132). -/
def dphVec (c : Config) (q : Nat → Comp) (t u : Vec4) : Vec4 :=
  .splat (fadd c.flen (q 0) (dot3 c.flen (q 0) t u) u.w)

/-- DST: `r = (1.0, FMUL(t[1], u[1]), t[2], u[3])` (R133). -/
def dstVec (c : Config) (q : Nat → Comp) (t u : Vec4) : Vec4 := ⟨fone c.flen, fmul c.flen (q 1) t.y u.y, t.z, u.w⟩

end Sys2Proof

namespace Sys2Proof.Machine

/-- DP3 (R130). -/
def execDp3 (d : DstOperand) (t u : SrcOperand) (s : State) : Host.Outcome State Fault Refusal :=
  binaryOp d t u s dp3Vec

/-- DP4 (R131). -/
def execDp4 (d : DstOperand) (t u : SrcOperand) (s : State) : Host.Outcome State Fault Refusal :=
  binaryOp d t u s dp4Vec

/-- DPH (R132). -/
def execDph (d : DstOperand) (t u : SrcOperand) (s : State) : Host.Outcome State Fault Refusal :=
  binaryOp d t u s dphVec

/-- DST (R133). -/
def execDst (d : DstOperand) (t u : SrcOperand) (s : State) : Host.Outcome State Fault Refusal :=
  binaryOp d t u s dstVec

end Sys2Proof.Machine
end

