-- ==== Sys2Proof/Machine/Units.lean ====
section
/-! DEFINITION. The base-2 logarithm and exponential units (41_fp_units.md R97, R98). The values R97 and R98 pin are
computed; the others come from an opaque function that is forced to be monotone and to lie in its bracket, and can
be any function that does. -/

namespace Sys2Proof

/-- `v` forced into `lo` .. `hi`. -/
def clampInt (lo hi v : Int) : Int := if v < lo then lo else if hi < v then hi else v

/-- A function of `k`, for `base` ≤ `k` < `base` + 2^`d`, that never falls and stays between `lo` and `hi`, made from
any function `raw`: at each halving the value at the middle bounds the left half from above and the right half from
below. Where `raw` itself never falls and stays in the bounds, it is `raw`. -/
def monotoneBelow (raw : Int → Int) : (d : Nat) → (base lo hi k : Int) → Int
  | 0, base, lo, hi, _ => clampInt lo hi (raw base)
  | d + 1, base, lo, hi, k =>
    let mid := base + (2 ^ d : Nat)
    let pivot := clampInt lo hi (raw mid)
    if k < mid then monotoneBelow raw d base lo pivot k else monotoneBelow raw d mid pivot hi k

/-- The key of an inexact result of a unit: monotone in the key `k` of the argument, from `start` on, between `lo`
and `hi`. -/
def boundedKey (fl : Flen) (raw : Int → Int) (start lo hi k : Int) : Int :=
  monotoneBelow raw (fl.bits - 1) start lo hi k

/-- `FLOG2` where 2^k < a < 2^(k+1): between k and k + 1 (R97 properties 6 and 7, log 9). -/
def log2Inexact (fl : Flen) (a : Comp) (k : Int) : Comp :=
  let v := boundedKey fl (Config.log2Raw fl) (sortKey fl (pow2Float fl k)) (sortKey fl (intFloat fl k))
    (sortKey fl (intFloat fl (k + 1))) (sortKey fl a)
  if v = 0 then fzero fl (Config.log2ZeroSign fl (sortKey fl a)) else ofSortKey fl v

/-- `FLOG2` (R97). -/
def flog2 (fl : Flen) (q a : Comp) : Comp :=
  match unpack fl a with
  | .nan => q
  | .inf n => if n then q else finf fl false
  | .fin n m e =>
    if m = 0 then finf fl true
    else if n then q
    else if m = 2 ^ Nat.log2 m then intFloat fl (splitExp m e)
    else log2Inexact fl a (splitExp m e)

/-- `FEXP2` of a non-integral `a` with floor `f`: between 2^f and 2^(f+1), the upper bound `+inf` for `f` = EMAX
(R98 properties 6 and 7, log 10). -/
def exp2Inexact (fl : Flen) (a : Comp) (f : Int) : Comp :=
  ofSortKey fl (boundedKey fl (Config.exp2Raw fl) (sortKey fl (intFloat fl f)) (sortKey fl (pow2Float fl f))
    (sortKey fl (pow2Float fl (f + 1))) (sortKey fl a))

/-- `FEXP2` (R98). -/
def fexp2 (fl : Flen) (q a : Comp) : Comp :=
  match unpack fl a with
  | .nan => q
  | .inf n => if n then fzero fl false else finf fl false
  | .fin n m e =>
    let f := floorInt n m e
    if fl.emax < f then finf fl false
    else if f < fl.emin then fzero fl false
    else if isIntegral m e then pow2Float fl f
    else exp2Inexact fl a f

end Sys2Proof
end

