-- ==== Sys2Proof/Machine/ScalarSpecial.lean ====
section
/-! DEFINITION. Scalar and special-function instructions (44_scalar_special.md R140 to R148). `q i` is the generated
NaN of result component i. -/

namespace Sys2Proof

/-- The reciprocal with the source's special case for 1.0 (R140, R141). -/
def recip (fl : Flen) (q a : Comp) : Comp := if feq fl a (fone fl) then fone fl else frcp fl q a

/-- RCP (R140). -/
def rcpVec (c : Config) (q : Nat → Comp) (a : Comp) : Vec4 := .splat (recip c.flen (q 0) a)

/-- The clamp of RCC, by the sign of the reciprocal (R141). -/
def rccClamp (c : Config) (q s : Comp) : Comp :=
  if isNan c.flen s then q
  else if signOf c.flen s then
    clampLo c.flen (clampHi c.flen s (fneg c.flen c.rccMin)) (fneg c.flen c.rccMax)
  else clampHi c.flen (clampLo c.flen s c.rccMin) c.rccMax

/-- RCC (R141). -/
def rccVec (c : Config) (q : Nat → Comp) (a : Comp) : Vec4 := .splat (rccClamp c (q 0) (recip c.flen (q 0) a))

/-- RSQ (R142). -/
def rsqVec (c : Config) (q : Nat → Comp) (a : Comp) : Vec4 := .splat (frsq c.flen (q 0) a)

/-- EXP: `(2^floor(a), a - floor(a), 2^a, 1.0)` (R143, log 11). -/
def expVec (c : Config) (q : Nat → Comp) (a : Comp) : Vec4 :=
  if isNan c.flen a then ⟨q 0, q 1, q 2, fone c.flen⟩
  else
    let f := ffloor c.flen (q 1) a
    ⟨fexp2 c.flen (q 0) f, if isInf c.flen a then fzero c.flen false else fsub c.flen (q 1) a f,
      fexp2 c.flen (q 2) a, fone c.flen⟩

/-- LOG of `a = FABS(t[0])`: `(exponent, mantissa, log2(a), 1.0)` (R145, log 11). -/
def logMagVec (c : Config) (q : Nat → Comp) (a : Comp) : Vec4 :=
  match unpack c.flen a with
  | .nan => ⟨q 0, q 1, q 2, fone c.flen⟩
  | .inf _ => ⟨finf c.flen false, fone c.flen, finf c.flen false, fone c.flen⟩
  | .fin _ m e =>
    if m = 0 then ⟨finf c.flen true, fone c.flen, finf c.flen true, fone c.flen⟩
    else ⟨intFloat c.flen (splitExp m e), splitMant c.flen m, flog2 c.flen (q 2) a, fone c.flen⟩

/-- LOG (R145). -/
def logVec (c : Config) (q : Nat → Comp) (a : Comp) : Vec4 := logMagVec c q (fabs c.flen a)

/-- `LIT_W_MAX = FSUB(128, LIT_EPS)` (R100, R147). -/
def litWMax (c : Config) (q : Comp) : Comp := fsub c.flen q (intFloat c.flen 128) c.litEps

/-- The clamped exponent of LIT (R147). -/
def litW (c : Config) (q w : Comp) : Comp :=
  clampHi c.flen (clampLo c.flen w (fneg c.flen (litWMax c q))) (litWMax c q)

/-- LIT (R147): the power is `FEXP2(FMUL(w, FLOG2(y)))`. -/
def litVec (c : Config) (q : Nat → Comp) (t : Vec4) : Vec4 :=
  let zero := fzero c.flen false
  let x := clampLo c.flen t.x zero
  let y := clampLo c.flen t.y zero
  let w := litW c (q 2) t.w
  ⟨fone c.flen, x,
    if fgt c.flen x zero then fexp2 c.flen (q 2) (fmul c.flen (q 2) w (flog2 c.flen (q 2) y)) else zero,
    fone c.flen⟩

end Sys2Proof

namespace Sys2Proof.Machine

/-- RCP (R140). -/
def execRcp (d : DstOperand) (t : SrcOperand) (s : State) : Host.Outcome State Fault Refusal := scalarOp d t s rcpVec

/-- RCC (R141). -/
def execRcc (d : DstOperand) (t : SrcOperand) (s : State) : Host.Outcome State Fault Refusal := scalarOp d t s rccVec

/-- RSQ (R142). -/
def execRsq (d : DstOperand) (t : SrcOperand) (s : State) : Host.Outcome State Fault Refusal := scalarOp d t s rsqVec

/-- EXP (R143). -/
def execExp (d : DstOperand) (t : SrcOperand) (s : State) : Host.Outcome State Fault Refusal := scalarOp d t s expVec

/-- LOG (R145). -/
def execLog (d : DstOperand) (t : SrcOperand) (s : State) : Host.Outcome State Fault Refusal := scalarOp d t s logVec

/-- LIT (R147). -/
def execLit (d : DstOperand) (t : SrcOperand) (s : State) : Host.Outcome State Fault Refusal := unaryOp d t s litVec

end Sys2Proof.Machine
end

