-- ==== Sys2Proof/Machine/Dispatch.lean ====
section
/-! DEFINITION. One arm for each instruction (R46, R61). -/

namespace Sys2Proof.Machine

def exec (i : Instr) (s : State) : Host.Outcome State Fault Refusal :=
  match i with
  | .endProg => Sys2Proof.Machine.execEnd s
  | .mov d t => Sys2Proof.Machine.execMov d t s
  | .lit d t => Sys2Proof.Machine.execLit d t s
  | .rcp d t => Sys2Proof.Machine.execRcp d t s
  | .rsq d t => Sys2Proof.Machine.execRsq d t s
  | .exp d t => Sys2Proof.Machine.execExp d t s
  | .log d t => Sys2Proof.Machine.execLog d t s
  | .mul d t u => Sys2Proof.Machine.execMul d t u s
  | .add d t u => Sys2Proof.Machine.execAdd d t u s
  | .dp3 d t u => Sys2Proof.Machine.execDp3 d t u s
  | .dp4 d t u => Sys2Proof.Machine.execDp4 d t u s
  | .dst d t u => Sys2Proof.Machine.execDst d t u s
  | .min d t u => Sys2Proof.Machine.execMin d t u s
  | .max d t u => Sys2Proof.Machine.execMax d t u s
  | .slt d t u => Sys2Proof.Machine.execSlt d t u s
  | .sge d t u => Sys2Proof.Machine.execSge d t u s
  | .mad d t u v => Sys2Proof.Machine.execMad d t u v s
  | .arl t => Sys2Proof.Machine.execArl t s
  | .dph d t u => Sys2Proof.Machine.execDph d t u s
  | .rcc d t => Sys2Proof.Machine.execRcc d t s
  | .sub d t u => Sys2Proof.Machine.execSub d t u s
  | .abs d t => Sys2Proof.Machine.execAbs d t s

end Sys2Proof.Machine
end

