-- ==== Sys2Proof/Machine/HostCommands.lean ====
section
/-! DEFINITION. The eight host commands (49_host_commands.md R170 to R179), each one function on the state. -/

namespace Sys2Proof.Machine

/-! ### Codes the host reads (R18, R191) -/

/-- The code of STATUS (R18). -/
def Status.code : Status → Nat
  | .halted => 0
  | .running => 1
  | .faulted => 2

/-- The code of FAULT_CAUSE (R191). -/
def causeCode : FaultCause → Nat
  | .none => 0
  | .unknownOpcode => 1
  | .reservedNonzero => 2
  | .destRegion => 3
  | .destIndex => 4
  | .srcRegion => 5
  | .srcRelRegion => 6
  | .srcIndex => 7

/-! ### Answers -/

/-- An accepted command that returns nothing. -/
def State.accept (s : State) : State := { s with reply := .accepted }

/-- A refused command: no state changes but the mark (R170 (c)). -/
def State.refuse (s : State) : State := { s with reply := .refused }

/-! ### The commands -/

/-- `k` unspecified words, from the `n`-th on. -/
def drawWords (n k : Nat) : List IWord := (List.range k).map fun i => Config.drawWord (n + i)

/-- How many unspecified values RESET draws (R171). -/
def resetDraws (c : Config) : Nat := 4 * (numIn + c.numOut + c.numTmp + c.numParam) + 1 + c.imemSize

/-- RESET (R171): control state definite, every register and every word of the instruction store unspecified
(log 5). -/
def hostReset (s : State) : State :=
  { s with
    status := .halted
    ip := 0
    progLen := 0
    faultCause := .none
    faultIp := 0
    input := drawRegs s.cfg.flen s.draws numIn
    output := drawRegs s.cfg.flen (s.draws + 4 * numIn) s.cfg.numOut
    temporary := drawRegs s.cfg.flen (s.draws + 4 * (numIn + s.cfg.numOut)) s.cfg.numTmp
    parameter := drawRegs s.cfg.flen (s.draws + 4 * (numIn + s.cfg.numOut + s.cfg.numTmp)) s.cfg.numParam
    ar := drawAr s.cfg.arWidth (s.draws + 4 * (numIn + s.cfg.numOut + s.cfg.numTmp + s.cfg.numParam))
    imem := Memory.writeFrom [] 0
      (drawWords (s.draws + 4 * (numIn + s.cfg.numOut + s.cfg.numTmp + s.cfg.numParam) + 1) s.cfg.imemSize)
    draws := s.draws + resetDraws s.cfg
    reply := .accepted }

/-- LOAD_PROGRAM (R172): the words are stored unexamined from index 0 on; later entries keep their contents. -/
def hostLoadProgram (words : List IWord) (s : State) : State :=
  if words.length ≤ s.cfg.imemSize then
    State.accept { s with imem := Memory.writeFrom s.imem 0 words, progLen := words.length }
  else s.refuse

/-- WRITE_PARAM (R174). -/
def hostWriteParam (i : Int) (v : Vec4) (s : State) : State :=
  if 0 ≤ i ∧ i < s.cfg.numParam then (s.writeReg .parameter i.toNat (v.fit s.cfg.flen)).accept else s.refuse

/-- Element `k` of a matrix array (R175). -/
def matrixAt (m : Vector Comp 16) (k : Nat) : Comp := m.toList.getD k 0

/-- Four consecutive elements: register `b + i` of an untransposed load (R175, Identity). -/
def matrixRow (m : Vector Comp 16) (i : Nat) : Vec4 :=
  ⟨matrixAt m (4 * i), matrixAt m (4 * i + 1), matrixAt m (4 * i + 2), matrixAt m (4 * i + 3)⟩

/-- Elements i, 4+i, 8+i, 12+i: register `b + i` of a transposed load (R175, Transpose). -/
def matrixColumn (m : Vector Comp 16) (i : Nat) : Vec4 :=
  ⟨matrixAt m i, matrixAt m (4 + i), matrixAt m (8 + i), matrixAt m (12 + i)⟩

/-- The four vectors `v 0` to `v 3` written to consecutive registers from index `b` on. -/
def writeBlock (fl : Flen) (p : List Vec4) (b : Nat) (v : Nat → Vec4) : List Vec4 :=
  (((p.set b ((v 0).fit fl)).set (b + 1) ((v 1).fit fl)).set (b + 2) ((v 2).fit fl)).set (b + 3) ((v 3).fit fl)

/-- One binding applied to the Parameter registers (R175). -/
def loadBinding (fl : Flen) (p : List Vec4) (b : Binding) : List Vec4 :=
  match b.kind with
  | .none => p
  | .identity => writeBlock fl p b.block.toNat (matrixRow b.m)
  | .transpose => writeBlock fl p b.block.toNat (matrixColumn b.m)
  | .inverse => writeBlock fl p b.block.toNat (matrixRow b.minv)
  | .inverseTranspose => writeBlock fl p b.block.toNat (matrixColumn b.minv)

/-- The precondition of one binding (R175): kind None asks nothing. -/
def bindingFits (c : Config) (b : Binding) : Bool :=
  b.kind == .none || (decide (0 ≤ b.block) && decide (b.block + 3 < c.numParam))

/-- LOAD_MATRICES (R175): all bindings in list order, or none. -/
def hostLoadMatrices (bs : List Binding) (s : State) : State :=
  if bs.all (bindingFits s.cfg) then
    State.accept { s with parameter := bs.foldl (loadBinding s.cfg.flen) s.parameter }
  else s.refuse

/-- INIT (R176). -/
def hostInit (attrs : Vector Vec4 16) (s : State) : State :=
  State.accept
    { s with
      input := attrs.toList.map (Vec4.fit s.cfg.flen)
      output := List.replicate s.cfg.numOut (initVec s.cfg.flen)
      temporary := List.replicate s.cfg.numTmp (initVec s.cfg.flen)
      ar := 0 }

/-- RUN (R177). -/
def hostRun (s : State) : State :=
  State.accept { s with ip := 0, faultCause := .none, faultIp := 0, status := .running }

/-- READ_OUTPUT (R178). -/
def hostReadOutput (i : Int) (s : State) : State :=
  if 0 ≤ i ∧ i < s.cfg.numOut then { s with reply := .output (s.readReg .output i.toNat) } else s.refuse

/-- READ_STATUS (R179). -/
def hostReadStatus (s : State) : State :=
  { s with reply := .status s.status.code s.ip s.progLen (causeCode s.faultCause) s.faultIp }

/-- A command the machine takes only while it is not RUNNING (R170 (a)). -/
def whenStopped (s : State) (f : State → State) : State := if s.status = .running then s.refuse else f s

/-- What a command does: RESET in every state (R171), the others only while not RUNNING (R170). -/
def hostCommand (c : HostCommand) (s : State) : State :=
  match c with
  | .reset => hostReset s
  | .loadProgram ws => whenStopped s (hostLoadProgram ws)
  | .writeParam i v => whenStopped s (hostWriteParam i v)
  | .loadMatrices bs => whenStopped s (hostLoadMatrices bs)
  | .init attrs => whenStopped s (hostInit attrs)
  | .run => whenStopped s hostRun
  | .readOutput i => whenStopped s (hostReadOutput i)
  | .readStatus => whenStopped s hostReadStatus

end Sys2Proof.Machine
end

