-- ==== Sys2Proof/Machine/Sequencer.lean ====
section
/-! DEFINITION. The dispatcher step (R60) and whose turn it is (R36, R37, R170). -/

namespace Sys2Proof.Machine

/-- `IFetch(ip)` (R31). -/
def fetchWord (s : State) : IWord := s.imem.read s.ip

/-- Run what a word decodes to (R60, R48, R196). -/
def executeDecoded (d : Decoded) (s : State) : Host.Outcome State Fault Refusal :=
  match d with
  | .unknown => .next (raiseFault .unknownOpcode s)
  | .malformed c => .next (malformed c s)
  | .instr i => exec i s

/-- One dispatcher step, STATUS = RUNNING: halt at the end of the list, else fetch, decode, execute (R60). -/
def dispatcherStep (s : State) : Host.Outcome State Fault Refusal :=
  if s.progLen ≤ s.ip then .next { s with status := .halted } else executeDecoded (decode (fetchWord s)) s

/-- The state after the host's next move is taken off the list. -/
def State.dropMove (s : State) : State := { s with pending := s.pending.tail }

/-- A step at which the host is silent: the dispatcher steps if STATUS = RUNNING; otherwise nothing happens while the
host has a later move, and the machine is at rest when it has none (R60, R193, log 13). -/
def silentStep (s : State) : Host.Outcome State Fault Refusal :=
  match s.status with
  | .running => dispatcherStep s.dropMove
  | .halted => if s.pending = [] then .fault .restHalted else .next s.dropMove
  | .faulted => if s.pending = [] then .fault (.restFaulted s.faultCause) else .next s.dropMove

/-- One step of the machine: the host's command if it issues one, else the dispatcher's (R170, log 12). -/
def machineStep (s : State) : Host.Outcome State Fault Refusal :=
  match s.pending with
  | .issue c :: _ => .next (hostCommand c s.dropMove)
  | _ => silentStep s

/-- The state made ready to run one word next: the word at `ip` of the instruction store, `ip` inside the program,
STATUS = RUNNING and no host move before it (log 15). -/
def placeWord (s : State) (w : IWord) : State :=
  { s with
    imem := s.imem.write s.ip w
    progLen := max s.progLen (s.ip + 1)
    status := .running
    pending := [] }

end Sys2Proof.Machine
end

