-- ==== Sys2Proof/Machine/Step.lean ====
section
/-! DEFINITION. The step function of the machine, and the placing of one instruction for it. -/

namespace Sys2Proof.Machine

/-- One step of the machine (R60, R170). -/
def step (s : State) : Host.Outcome State Fault Refusal := machineStep s

/-- `s` with an instruction placed where `step` fetches its next instruction, so that the next step runs it
(log 15). Bits of `w` at and above `nbits` are zero. -/
def State.withFetchWord (s : State) (nbits w : Nat) : State := placeWord s (BitVec.ofNat 128 (w % 2 ^ nbits))

end Sys2Proof.Machine
end

