-- ==== Sys2Proof/Safety.lean ====
section
/-! DEFINITION. What a good state and a safe run are, in the words the statements use. -/

namespace Sys2Proof.Machine

/-- A component has no bit above `FLEN` (R80). -/
def compFits (fl : Flen) (x : Comp) : Bool := decide (x.toNat < 2 ^ fl.bits)

/-- A register holds four `FLEN`-bit components (R10). -/
def vecFits (fl : Flen) (v : Vec4) : Bool := compFits fl v.x && compFits fl v.y && compFits fl v.z && compFits fl v.w

/-- The register file has the registers the configuration gives it, each of `FLEN`-bit components, and `AR` is in
its range (R10 to R16). -/
def State.registersWf (s : State) : Bool :=
  s.input.length == numIn && s.output.length == s.cfg.numOut && s.temporary.length == s.cfg.numTmp &&
  s.parameter.length == s.cfg.numParam &&
  s.input.all (vecFits s.cfg.flen) && s.output.all (vecFits s.cfg.flen) && s.temporary.all (vecFits s.cfg.flen) &&
  s.parameter.all (vecFits s.cfg.flen) && inArRange s.cfg.arWidth s.ar

/-- The ranges of the control registers and what ties them together (R17 to R21). -/
def State.controlWf (s : State) : Bool :=
  decide (s.progLen ≤ s.cfg.imemSize) && decide (s.ip ≤ s.cfg.imemSize) && decide (s.faultIp < s.cfg.imemSize) &&
  (match s.status with
    | .halted => s.faultCause == .none
    | .running => s.faultCause == .none && decide (s.ip ≤ s.progLen)
    | .faulted => s.faultCause != .none && s.faultIp == s.ip) &&
  (s.faultCause != .none || s.faultIp == 0)

/-- The instruction store is canonical and has no entry beyond its size (R23). -/
def State.storeWf (s : State) : Bool := s.imem.wf && s.imem.all fun p => decide (p.1 < s.cfg.imemSize)

/-- What holds of every state a machine can be in. -/
def State.wf (s : State) : Bool := s.cfg.wf && s.registersWf && s.controlWf && s.storeWf

/-! ### Frames -/

/-- Nothing outside Output, Temporary, `AR` and the control registers differs: the one safety property the source
asks for, "never write outside the RegisterFile's owned memory" (R35, R192, R200). -/
def State.sameProtected (s t : State) : Prop :=
  t.cfg = s.cfg ∧ t.input = s.input ∧ t.parameter = s.parameter ∧ t.imem = s.imem ∧ t.progLen = s.progLen

/-- Every control register but `ip`, and the host's side, is as before. -/
def State.sameControl (s t : State) : Prop :=
  t.status = s.status ∧ t.faultCause = s.faultCause ∧ t.faultIp = s.faultIp ∧ t.pending = s.pending ∧
    t.reply = s.reply

/-- Every component of every register is as before. -/
def State.sameRegisters (s t : State) : Prop := ∀ r i c, ((t.readReg r i).get c) = (s.readReg r i).get c

/-- Between `s` and `t` the enabled components of the destination `d` got those of `v`, `ip` rose by 1, and nothing
else changed: no other component of any register, not `AR`, no word of the instruction store, no control
register. -/
def State.writesOnly (d : DstOperand) (v : Vec4) (s t : State) : Prop :=
  (∀ r i c, (t.readReg r i).get c =
    if (r = d.region ∧ i = d.index.toNat) ∧ d.wmask.getLsbD c = true then v.get c else (s.readReg r i).get c) ∧
  t.output.length = s.output.length ∧ t.temporary.length = s.temporary.length ∧
  s.sameProtected t ∧ (∀ a, t.imem.read a = s.imem.read a) ∧ t.ar = s.ar ∧ t.ip = s.ip + 1 ∧ s.sameControl t

/-! ### Runs -/

/-- A run is over when STATUS is HALTED or FAULTED (R223). -/
def State.runOver (s : State) : Prop := s.status = .halted ∨ s.status = .faulted

/-- Two components are the same value: the same bits, or both a NaN, since all NaNs are one value to every rule
(R82). -/
def sameFloat (fl : Flen) (x y : Comp) : Bool := x == y || (isNan fl x && isNan fl y)

/-- Two vectors are the same value, component by component. -/
def sameVec (fl : Flen) (v w : Vec4) : Bool :=
  sameFloat fl v.x w.x && sameFloat fl v.y w.y && sameFloat fl v.z w.z && sameFloat fl v.w w.w

/-- The Output registers hold the expected values, all of them and in order (R223). -/
def State.outputHolds (s : State) (expected : List Vec4) : Bool :=
  s.output.length == expected.length && (List.zip s.output expected).all fun p => sameVec s.cfg.flen p.1 p.2

/-- A run passes: STATUS = HALTED and the Output registers hold the expected values (R223). -/
def State.passed (s : State) (expected : List Vec4) : Prop := s.status = .halted ∧ s.outputHolds expected = true

/-- A run fails to complete: STATUS = FAULTED, `FAULT_CAUSE` says why and `FAULT_IP` where (R223). -/
def State.failed (s : State) : Prop := s.status = .faulted ∧ s.faultCause ≠ .none ∧ s.faultIp = s.ip

/-- The host issues no command at the next step. -/
def State.hostSilent (s : State) : Prop := ∀ c, s.pending.head? ≠ some (.issue c)

/-- The host issues no command at any later step. -/
def State.hostQuiet (s : State) : Prop := ∀ c, HostMove.issue c ∉ s.pending

/-- The dispatcher is about to fetch a word: STATUS = RUNNING, the host is silent, `ip` is inside the program. -/
def State.fetches (s : State) : Prop := s.status = .running ∧ s.hostSilent ∧ s.ip < s.progLen

/-- The cause the checks of R47 to R49 find in a word, NONE where they find none. -/
def wordCause (c : Config) (w : IWord) : FaultCause :=
  match decode w with
  | .unknown => .unknownOpcode
  | .malformed k => k
  | .instr i => staticCheck c i

end Sys2Proof.Machine

namespace Sys2Proof

/-! ### What a float stands for (R80) -/

/-- (-1)^neg * m * 2^e. -/
def finValue (neg : Bool) (m : Nat) (e : Int) : ℚ := (signed neg m : ℚ) * (2 : ℚ) ^ e

/-- The number a finite component stands for; 0 for the others. -/
def valueOf (fl : Flen) (x : Comp) : ℚ :=
  match unpack fl x with
  | .fin n m e => finValue n m e
  | _ => 0

/-- A component is finite. -/
def isFinite (fl : Flen) (x : Comp) : Bool := decide (magOf fl x < fl.infMag)

/-- The number the magnitude bits `k` stand for. At the bits of infinity the scale goes on: 2^(EMAX+1), the value
from which on rounding overflows halfway below. -/
def magValue (fl : Flen) (k : Nat) : ℚ :=
  if k / 2 ^ fl.fracBits = 0 then (k : ℚ) * (2 : ℚ) ^ fl.eulp
  else ((2 ^ fl.fracBits + k % 2 ^ fl.fracBits : Nat) : ℚ) * (2 : ℚ) ^ (fl.eulp + (k / 2 ^ fl.fracBits - 1 : Nat))

/-- The magnitude bits `r` are those of the real `x` ≥ 0 rounded to nearest, ties to even, overflow to infinity
(R81). -/
def NearestEven (fl : Flen) (x : ℝ) (r : Nat) : Prop :=
  r ≤ fl.infMag ∧ ∀ k ≤ fl.infMag, k ≠ r →
    |x - (magValue fl r : ℝ)| < |x - (magValue fl k : ℝ)| ∨
      (|x - (magValue fl r : ℝ)| = |x - (magValue fl k : ℝ)| ∧ r % 2 = 0)

/-- The order of the extended reals on values; a NaN is comparable to nothing (R91). -/
def FVal.lt : FVal → FVal → Prop
  | .nan, _ => False
  | _, .nan => False
  | .inf n, .inf n' => n = true ∧ n' = false
  | .inf n, .fin _ _ _ => n = true
  | .fin _ _ _, .inf n => n = false
  | .fin n m e, .fin n' m' e' => finValue n m e < finValue n' m' e'

/-- Equality of the extended reals on values; both zeros are equal, a NaN equals nothing (R91). -/
def FVal.same : FVal → FVal → Prop
  | .inf n, .inf n' => n = n'
  | .fin n m e, .fin n' m' e' => finValue n m e = finValue n' m' e'
  | _, _ => False

end Sys2Proof
end

