-- ==== Sys2Proof/Certificates/Slice0/Obligations.lean ====
section
/-! DEFINITION. The statements for the provers. Each docstring names the rule of spec/ it formalises. Where the spec
marks the rule, or the clause used, as its own decision D<n>, as derived or as general knowledge, the docstring says so
and OBLIGATIONS.json lists the statement as derived. -/

open Sys2Proof Sys2Proof.Machine

/-! ### Encoding and decoding -/

/-- Every instruction with every operand decodes from its own word (30_encoding.md R40 to R47; the
spec's own encoding, decisions D14 to D17). -/
def Obligations.DecodeReadsBackEncode : Prop := ∀ i : Instr, decode (encode i) = .instr i

/-- Every word that decodes to an instruction is that instruction's word: the encoding is injective and has no
don't-care bit (30_encoding.md R45, R47; decisions D16, D17). -/
def Obligations.EncodeReadsBackDecode : Prop := ∀ (w : IWord) (i : Instr), decode w = .instr i → encode i = w

/-- A word decodes to an instruction exactly if it matches a row of the opcode table, and then to the row's opcode
(30_encoding.md, how to read opcode_table.json; the numbers are decision D15). -/
def Obligations.DecodeMatchesOpcodeTable : Prop :=
  (∀ (w : IWord) (i : Instr), decode w = .instr i →
    ∃ row ∈ opcodeRows, row.2 = i.opcode.setWidth 128 ∧ w &&& row.1 = row.2) ∧
  (∀ (w : IWord), ∀ row ∈ opcodeRows, w &&& row.1 = row.2 → ∃ i, decode w = .instr i)

/-- The three worked encodings (30_encoding.md R51, derived by the spec from its own layout). -/
def Obligations.WorkedEncodingsOfMadMovEnd : Prop :=
  let id (r : Region) (n : BitVec 8) : SrcOperand := ⟨r, n, 0, 1, 2, 3, false, false⟩
  let mad : Instr := .mad ⟨.output, 0, 15⟩ (id .input 0) (id .parameter 0) (id .parameter 1)
  let mov : Instr := .mov ⟨.temporary, 0, 3⟩ ⟨.temporary, 0, 1, 0, 2, 3, false, false⟩
  encode mad = 0x00039301_00039300_00039000_003D0010 ∧ decode 0x00039301_00039300_00039000_003D0010 = .instr mad ∧
  encode mov = 0x00000000_00000000_00038600_000E0001 ∧ decode 0x00000000_00000000_00038600_000E0001 = .instr mov ∧
  encode .endProg = 0 ∧ decode 0 = .instr .endProg

/-- The serialised form of a word is little-endian and reads back (20_memory.md R32, decision D24). -/
def Obligations.WordBytesAreLittleEndian : Prop :=
  (∀ w : IWord, wordOfBytes (wordToBytes w) = w) ∧
  (∀ (w : IWord) (k : Nat), k < 16 → (wordToBytes w)[k]? = some (w.extractLsb' (8 * k) 8))

/-! ### The dispatcher -/

/-- A step runs exactly the instruction the word at `ip` decodes to (40_execution_model.md R60). -/
def Obligations.StepRunsDecodedInstruction : Prop :=
  ∀ (s : State) (i : Instr), s.fetches → decode (fetchWord s) = .instr i → step s = exec i s.dropMove

/-- A word placed for the next step is the word the next step runs (the model's placing, log 15). -/
def Obligations.PlacedWordRunsNext : Prop :=
  ∀ (s : State) (w : IWord) (i : Instr), s.imem.wf = true → decode w = .instr i →
    step (s.withFetchWord 128 w.toNat) = exec i (s.withFetchWord 128 w.toNat)

/-- At the end of the list the dispatcher halts, and nothing else changes but the silent host move that passes
(45_address_end.md R162, 40_execution_model.md R60). -/
def Obligations.EndOfListHalts : Prop :=
  ∀ s : State, s.status = .running → s.hostSilent → s.progLen ≤ s.ip →
    step s = .next { s.dropMove with status := .halted }

/-- END is the all-zero word, any other word of opcode 0 is malformed, and END halts and changes nothing else: `ip`
keeps its index (45_address_end.md R161; that the other words are malformed is 30_encoding.md R47, decisions D16,
D17). -/
def Obligations.EndInstructionHalts : Prop :=
  Instr.endProg.opcode = 0 ∧
  (∀ w : IWord, opcodeField w = 0 → decode w = if w = 0 then .instr .endProg else .malformed .reservedNonzero) ∧
  (∀ s : State, exec .endProg s = .next { s with status := .halted }) ∧
  (∀ s : State, s.fetches → fetchWord s = 0 → step s = .next { s.dropMove with status := .halted })

/-- Every dispatcher step halts, faults, or raises `ip` by exactly 1, and halts at the end of the list; so a run ends
in HALTED or FAULTED after at most PROG_LEN - ip + 1 steps, at most PROG_LEN + 1 from RUN's `ip` = 0
(40_execution_model.md R63, derived by the spec from R60). The run is then over: it halted, or failed to complete with
a cause and an index (70_reset_and_hazards.md R223). -/
def Obligations.RunTerminates : Prop :=
  (∀ s : State, s.status = .running → s.hostSilent → ∃ t, step s = .next t ∧
    (t.status = .halted ∨ t.status = .faulted ∨ (t.status = .running ∧ t.ip = s.ip + 1)) ∧
    (s.progLen ≤ s.ip → t.status = .halted)) ∧
  ∀ s : State, s.status = .running → s.hostQuiet →
    ∃ k ≤ s.progLen - s.ip + 1, ∃ t, Host.Core.run Sys2Proof.core k s = .next t ∧
      t.runOver ∧ (t.status = .halted ∨ t.failed)

/-- The machine is at rest only when STATUS is not RUNNING and the host has no move left, and a step never refuses. In
HALTED and FAULTED the dispatcher has no step: a silent host move passes and nothing else changes, and with no move left
the step answers the rest stop of the status (40_execution_model.md R60, R63, 60_exceptions.md R193; the stop and the
list of moves are the model's choice, log 12, log 13). -/
def Obligations.StopsOnlyAtRest : Prop :=
  (∀ (s : State) (f : Fault), step s = .fault f → s.status ≠ .running ∧ s.pending = []) ∧
  (∀ (s : State) (r : Refusal), step s ≠ .refused r) ∧
  (∀ (s : State) (l : List HostMove), s.status ≠ .running → s.pending = .silent :: l →
    step s = .next { s with pending := l }) ∧
  (∀ s : State, s.pending = [] →
    (s.status = .halted → step s = .fault .restHalted) ∧
    (s.status = .faulted → step s = .fault (.restFaulted s.faultCause)))

/-- The transitions of STATUS and its codes (10_state.md R18, decisions D19 and D20). -/
def Obligations.StatusTransitions : Prop :=
  (Status.code .halted = 0 ∧ Status.code .running = 1 ∧ Status.code .faulted = 2) ∧
  ∀ s t : State, step s = .next t →
    t.status = s.status ∨
    (s.pending.head? = some (.issue .reset) ∧ t.status = .halted) ∨
    (s.status ≠ .running ∧ s.pending.head? = some (.issue .run) ∧ t.status = .running) ∨
    (s.status = .running ∧ s.hostSilent ∧ (t.status = .halted ∨ t.status = .faulted))

/-! ### Invariants -/

/-- Every step keeps the well-formedness of the state: the sizes of the regions, the width of every component, the
ranges of `AR` and of the control registers, what ties STATUS, FAULT_CAUSE, FAULT_IP and `ip` together, the
canonical form of the instruction store (10_state.md R10 to R23; STATUS and the fault registers are decision D20). -/
def Obligations.StepKeepsStateWellFormed : Prop :=
  ∀ s t : State, s.wf = true → step s = .next t → t.wf = true

/-- The machine right after reset is well-formed, under every legal configuration, and its control state is definite
(70_reset_and_hazards.md R210, decision D23; what the registers hold is the model's, log 3). -/
def Obligations.ResetStateIsWellFormedAndHalted : Prop :=
  State.reset.wf = true ∧ ∀ c : Config, c.wf = true →
    (State.resetOf c).wf = true ∧ (State.resetOf c).status = .halted ∧ (State.resetOf c).ip = 0 ∧
    (State.resetOf c).progLen = 0 ∧ (State.resetOf c).faultCause = .none ∧ (State.resetOf c).faultIp = 0

/-- No step of the dispatcher changes Input, Parameter, the instruction store, PROG_LEN or the configuration, or the
number of Output or Temporary registers (20_memory.md R35, 60_exceptions.md R200). -/
def Obligations.DispatcherKeepsProtectedStorage : Prop :=
  ∀ s t : State, s.cfg.wf = true → s.registersWf = true → s.status = .running → s.hostSilent → step s = .next t →
    s.sameProtected t ∧ (∀ a, t.imem.read a = s.imem.read a) ∧
    t.output.length = s.output.length ∧ t.temporary.length = s.temporary.length

/-- Under MALFORMED_POLICY = nop the causes 2 to 7 never appear in FAULT_CAUSE (60_exceptions.md R191, decision D19). -/
def Obligations.NopPolicyNeverRecordsMalformed : Prop :=
  ∀ s t : State, s.cfg.malformedPolicy = .nop → causeCode s.faultCause ≤ 1 → step s = .next t →
    t.cfg.malformedPolicy = .nop ∧ causeCode t.faultCause ≤ 1

/-! ### Faults -/

/-- The order of the checks of one word (60_exceptions.md R197, decision D19; 30_encoding.md R49, decision D18): an
earlier failure decides, whatever later fields hold, and the end-of-list test comes before all. -/
def Obligations.FaultCausePriority : Prop :=
  (∀ s t : State, s.status = .running → s.hostSilent → s.progLen ≤ s.ip → step s = .next t →
    t.status ≠ .faulted ∧ t.faultCause = s.faultCause) ∧
  (∀ (c : Config) (w : IWord), 21 < opcodeField w → wordCause c w = .unknownOpcode) ∧
  (∀ (c : Config) (w : IWord), opcodeField w ≤ 21 → (∀ i, decode w ≠ .instr i) → wordCause c w = .reservedNonzero) ∧
  (∀ (c : Config) (w : IWord) (i : Instr) (d : DstOperand), decode w = .instr i → i.dst? = some d →
    (d.region = .input ∨ d.region = .parameter → wordCause c w = .destRegion) ∧
    ((d.region = .output ∨ d.region = .temporary) → c.regionSize d.region ≤ d.index.toNat →
      wordCause c w = .destIndex)) ∧
  (∀ (c : Config) (w : IWord) (i : Instr) (l l' : List SrcOperand) (o : SrcOperand), decode w = .instr i →
    (∀ d ∈ i.dst?, d.wf c = true) → i.srcs = l ++ o :: l' → (∀ x ∈ l, x.wf c = true) →
    (o.region = .output → wordCause c w = .srcRegion) ∧
    (o.region ≠ .output → o.rel = true → o.region ≠ .parameter → wordCause c w = .srcRelRegion) ∧
    (o.region ≠ .output → o.rel = false → c.regionSize o.region ≤ o.index.toNat → wordCause c w = .srcIndex)) ∧
  (∀ (c : Config) (w : IWord) (i : Instr), decode w = .instr i → (wordCause c w = .none ↔ i.wf c = true))

/-- A fault is recorded and stops the machine; it leaves Input, Parameter, the instruction store and PROG_LEN, and
Output, Temporary and `AR` keep their shape whatever they hold (60_exceptions.md R192; unknown opcodes fault under
both policies, R48; decision D19). -/
def Obligations.FaultEntryRecordsAndProtects : Prop :=
  ∀ s : State, s.fetches → wordCause s.cfg (fetchWord s) ≠ .none →
    (wordCause s.cfg (fetchWord s) = .unknownOpcode ∨ s.cfg.malformedPolicy = .fault) →
    ∃ t, step s = .next t ∧ t.faultCause = wordCause s.cfg (fetchWord s) ∧ t.faultIp = s.ip ∧ t.ip = s.ip ∧
      t.status = .faulted ∧ s.sameProtected t ∧ t.pending = s.pending.tail ∧ t.reply = s.reply ∧
      t.output.length = s.cfg.numOut ∧ t.temporary.length = s.cfg.numTmp ∧
      t.output.all (vecFits s.cfg.flen) = true ∧ t.temporary.all (vecFits s.cfg.flen) = true ∧
      inArRange s.cfg.arWidth t.ar = true

/-- What MALFORMED_POLICY does with causes 2 to 7, a malformed END and ARL included (60_exceptions.md R196, decision D18). -/
def Obligations.MalformedPolicyDecides : Prop :=
  Config.default.malformedPolicy = .fault ∧
  ∀ s : State, s.fetches → 2 ≤ causeCode (wordCause s.cfg (fetchWord s)) →
    (s.cfg.malformedPolicy = .fault → step s = .next (raiseFault (wordCause s.cfg (fetchWord s)) s.dropMove)) ∧
    (s.cfg.malformedPolicy = .nop → step s = .next { s.dropMove with ip := s.ip + 1 })

/-- Whether a step faults, and with which cause and index, depends on the word and the configuration, never on the
contents of registers (60_exceptions.md R199, derived by the spec from R49). -/
def Obligations.FaultDependsOnlyOnWord : Prop :=
  ∀ s s' t t' : State, s.fetches → s'.fetches → s'.cfg = s.cfg → s'.ip = s.ip → fetchWord s' = fetchWord s →
    step s = .next t → step s' = .next t' →
    (t.status = .faulted ↔ t'.status = .faulted) ∧
    (t.status = .faulted → t'.faultCause = t.faultCause ∧ t'.faultIp = t.faultIp)

/-! ### Host commands -/

/-- RESET is taken in every state and leaves the control state definite; the registers and the instruction store
keep their shape whatever they hold (49_host_commands.md R171, decision D23). -/
def Obligations.ResetCommandTakenInEveryState : Prop :=
  ∀ (s : State) (l : List HostMove), s.pending = .issue .reset :: l → ∃ t, step s = .next t ∧
    t.status = .halted ∧ t.ip = 0 ∧ t.progLen = 0 ∧ t.faultCause = .none ∧ t.faultIp = 0 ∧ t.cfg = s.cfg ∧
    t.pending = l ∧ t.reply = .accepted ∧ t.registersWf = true ∧ t.storeWf = true

/-- A command other than RESET issued while RUNNING is refused and changes nothing. That such a command is refused, at
a step of its own at which the dispatcher does not step, is the model's choice (log 14): 49_host_commands.md R170 (a),
decision D21, says that the host has no such move; the mark on the run is log 12. -/
def Obligations.CommandRefusedWhileRunning : Prop :=
  ∀ (s : State) (c : HostCommand) (l : List HostMove), s.status = .running → c ≠ .reset →
    s.pending = .issue c :: l → step s = .next { s with pending := l, reply := .refused }

/-- LOAD_PROGRAM stores the words and the length; later entries and everything else are as before; a program that is
too long is refused (49_host_commands.md R172, decision D13). -/
def Obligations.LoadProgramStoresWords : Prop :=
  ∀ (s : State) (ws : List IWord) (l : List HostMove), s.imem.wf = true → s.status ≠ .running →
    s.pending = .issue (.loadProgram ws) :: l →
    (ws.length ≤ s.cfg.imemSize → ∃ t, step s = .next t ∧ t.progLen = ws.length ∧
      (∀ i, t.imem.read i = if i < ws.length then ws.getD i 0 else s.imem.read i) ∧
      t = { s with imem := t.imem, progLen := t.progLen, pending := l, reply := .accepted }) ∧
    (s.cfg.imemSize < ws.length → step s = .next { s with pending := l, reply := .refused })

/-- WRITE_PARAM writes one Parameter register whole, bit-exact, and nothing else; an index out of range is refused
(49_host_commands.md R174, decision D22). -/
def Obligations.WriteParamWritesOneRegister : Prop :=
  ∀ (s : State) (i : Int) (v : Vec4) (l : List HostMove), s.registersWf = true → vecFits s.cfg.flen v = true →
    s.status ≠ .running → s.pending = .issue (.writeParam i v) :: l →
    (0 ≤ i → i < s.cfg.numParam → ∃ t, step s = .next t ∧ t.readReg .parameter i.toNat = v ∧
      (∀ k, k ≠ i.toNat → t.readReg .parameter k = s.readReg .parameter k) ∧
      t.parameter.length = s.parameter.length ∧
      t = { s with parameter := t.parameter, pending := l, reply := .accepted }) ∧
    ((i < 0 ∨ (s.cfg.numParam : Int) ≤ i) → step s = .next { s with pending := l, reply := .refused })

/-- LOAD_MATRICES with bindings that fit: they are applied in list order, the four registers of the last one hold its
matrix in the order of its kind, all others are as the bindings before it left them, kind None and the empty list change
nothing, and a register outside every binding keeps its value (49_host_commands.md R175, decisions D36, D37). -/
def Obligations.LoadMatricesAppliesBindingsInOrder : Prop :=
  ∀ (s : State) (bs : List Binding) (b : Binding) (l : List HostMove), s.registersWf = true → s.status ≠ .running →
    (∀ x ∈ bs ++ [b], ∀ k, compFits s.cfg.flen (matrixAt x.m k) = true ∧ compFits s.cfg.flen (matrixAt x.minv k) = true) →
    (∀ x ∈ bs ++ [b], bindingFits s.cfg x = true) →
    ∃ t u, step { s with pending := .issue (.loadMatrices (bs ++ [b])) :: l } = .next t ∧
      step { s with pending := .issue (.loadMatrices bs) :: l } = .next u ∧
      step { s with pending := .issue (.loadMatrices []) :: l } = .next { s with pending := l, reply := .accepted } ∧
      t = { s with parameter := t.parameter, pending := l, reply := .accepted } ∧
      t.parameter.length = s.parameter.length ∧
      (∀ k, (∀ x ∈ bs ++ [b], x.kind = .none ∨ k < x.block.toNat ∨ x.block.toNat + 4 ≤ k) →
        t.readReg .parameter k = s.readReg .parameter k) ∧
      (b.kind = .none → t.parameter = u.parameter) ∧
      (b.kind ≠ .none →
        (∀ k, (k < b.block.toNat ∨ b.block.toNat + 4 ≤ k) → t.readReg .parameter k = u.readReg .parameter k) ∧
        ∀ i < 4,
          (b.kind = .identity → t.readReg .parameter (b.block.toNat + i) =
            ⟨matrixAt b.m (4 * i), matrixAt b.m (4 * i + 1), matrixAt b.m (4 * i + 2), matrixAt b.m (4 * i + 3)⟩) ∧
          (b.kind = .transpose → t.readReg .parameter (b.block.toNat + i) =
            ⟨matrixAt b.m i, matrixAt b.m (4 + i), matrixAt b.m (8 + i), matrixAt b.m (12 + i)⟩) ∧
          (b.kind = .inverse → t.readReg .parameter (b.block.toNat + i) =
            ⟨matrixAt b.minv (4 * i), matrixAt b.minv (4 * i + 1), matrixAt b.minv (4 * i + 2),
              matrixAt b.minv (4 * i + 3)⟩) ∧
          (b.kind = .inverseTranspose → t.readReg .parameter (b.block.toNat + i) =
            ⟨matrixAt b.minv i, matrixAt b.minv (4 + i), matrixAt b.minv (8 + i), matrixAt b.minv (12 + i)⟩))

/-- A binding that does not fit refuses the whole LOAD_MATRICES; kind None always fits, another kind fits if its
four registers exist (49_host_commands.md R175, decisions D36, D37). -/
def Obligations.LoadMatricesRefusedWhole : Prop :=
  (∀ (c : Config) (b : Binding),
    bindingFits c b = true ↔ b.kind = .none ∨ (0 ≤ b.block ∧ b.block + 3 < (c.numParam : Int))) ∧
  ∀ (s : State) (bs : List Binding) (l : List HostMove), s.status ≠ .running →
    s.pending = .issue (.loadMatrices bs) :: l → (∃ b ∈ bs, bindingFits s.cfg b = false) →
    step s = .next { s with pending := l, reply := .refused }

/-- INIT: Input holds the attributes bit-exact, Output and Temporary `(+0, +0, +0, 1.0)`, `AR` 0, and nothing else
changes (49_host_commands.md R176). -/
def Obligations.InitSetsVertexState : Prop :=
  ∀ (s : State) (a : Vector Vec4 16) (l : List HostMove), s.status ≠ .running →
    (∀ i : Fin 16, vecFits s.cfg.flen a[i] = true) → s.pending = .issue (.init a) :: l →
    ∃ t, step s = .next t ∧
      (∀ i : Fin 16, t.readReg .input i = a[i]) ∧ t.input.length = 16 ∧
      (∀ i < s.cfg.numOut, t.readReg .output i = ⟨0, 0, 0, fone s.cfg.flen⟩) ∧ t.output.length = s.cfg.numOut ∧
      (∀ i < s.cfg.numTmp, t.readReg .temporary i = ⟨0, 0, 0, fone s.cfg.flen⟩) ∧
      t.temporary.length = s.cfg.numTmp ∧ t.ar = 0 ∧
      t = { s with
        input := t.input
        output := t.output
        temporary := t.temporary
        ar := 0
        pending := l
        reply := .accepted }

/-- RUN: `ip`, FAULT_CAUSE and FAULT_IP become 0 and STATUS becomes RUNNING; nothing else changes
(49_host_commands.md R177, 70_reset_and_hazards.md R212). -/
def Obligations.RunStartsAtZero : Prop :=
  ∀ (s : State) (l : List HostMove), s.status ≠ .running → s.pending = .issue .run :: l →
    step s = .next { s with
      ip := 0
      faultCause := .none
      faultIp := 0
      status := .running
      pending := l
      reply := .accepted }

/-- READ_OUTPUT returns the register bit-exact or is refused, READ_STATUS returns the five control values and never
shows RUNNING; neither changes a state (49_host_commands.md R178; R179, decision D20; the refusal is R170, decision
D21). -/
def Obligations.ReadCommandsReturnState : Prop :=
  (∀ (s : State) (i : Int) (l : List HostMove), s.status ≠ .running → s.pending = .issue (.readOutput i) :: l →
    (0 ≤ i → i < s.cfg.numOut →
      step s = .next { s with pending := l, reply := .output (s.readReg .output i.toNat) }) ∧
    ((i < 0 ∨ (s.cfg.numOut : Int) ≤ i) → step s = .next { s with pending := l, reply := .refused })) ∧
  (∀ (s : State) (l : List HostMove), s.status ≠ .running → s.pending = .issue .readStatus :: l →
    let answer := HostReply.status s.status.code s.ip s.progLen (causeCode s.faultCause) s.faultIp
    s.status.code ≠ 1 ∧ step s = .next { s with pending := l, reply := answer })

/-! ### Operand fetch -/

/-- A direct operand reads its register. A relative one reads `Parameter[index + AR]`, the sum without wrap-around,
and the zero vector outside the Parameter region, for negative and too-large sums alike; the negate flag turns that
into `-0` (40_execution_model.md R64, R66; the width of the sum and the sign of the zeros are decisions D10, D11). -/
def Obligations.RelativeFetchIsBounded : Prop :=
  ∀ (s : State) (o : SrcOperand),
    (o.rel = false → resolve s o = s.readReg o.region o.index.toNat) ∧
    (o.rel = true → 0 ≤ (o.index.toNat : Int) + s.ar → (o.index.toNat : Int) + s.ar < s.cfg.numParam →
      resolve s o = s.readReg .parameter ((o.index.toNat : Int) + s.ar).toNat) ∧
    (o.rel = true → ((o.index.toNat : Int) + s.ar < 0 ∨ (s.cfg.numParam : Int) ≤ (o.index.toNat : Int) + s.ar) →
      resolve s o = Vec4.zero ∧ fetchVector4 s o = Vec4.splat (fzero s.cfg.flen o.neg))

/-- Component i of a fetched operand is the register component its swizzle names, the sign inverted if the negate
flag is set; a scalar operand is component 0 (40_execution_model.md R65 to R67). -/
def Obligations.FetchSwizzlesThenNegates : Prop :=
  ∀ (s : State) (o : SrcOperand),
    (∀ c : CIdx, (fetchVector4 s o).get c =
      let x := (resolve s o).get (match c with | 0 => o.swz0 | 1 => o.swz1 | 2 => o.swz2 | 3 => o.swz3)
      if o.neg then fneg s.cfg.flen x else x) ∧
    fetchVector1 s o = (fetchVector4 s o).get 0

/-! ### Write-back -/

/-- The enabled components of the destination get the result's, bit-exact; no other component of any register, and
nothing outside the register file, changes (40_execution_model.md R68). -/
def Obligations.StoreWritesOnlyEnabledComponents : Prop :=
  ∀ (s : State) (d : DstOperand) (r : Vec4), s.registersWf = true → d.wf s.cfg = true →
    let t := storeVector4 d r s
    (∀ g i c, (t.readReg g i).get c =
      if (g = d.region ∧ i = d.index.toNat) ∧ d.wmask.getLsbD c = true then r.get c else (s.readReg g i).get c) ∧
    (d.wmask = 0 → t = s) ∧ t = { s with output := t.output, temporary := t.temporary } ∧
    t.output.length = s.output.length ∧ t.temporary.length = s.temporary.length

/-! ### Results of the instructions, with their frames

`nanFor s i` is the generated NaN of result component i: its sign and payload are free (41_fp_units.md R82). -/

/-- MOV copies, ABS clears the signs (42_componentwise.md R110, R111). -/
def Obligations.MovAbsResults : Prop :=
  ∀ (s : State) (d : DstOperand) (t : SrcOperand), s.registersWf = true →
    ((Instr.mov d t).wf s.cfg = true → ∃ s', exec (.mov d t) s = .next s' ∧ s.writesOnly d (fetchVector4 s t) s') ∧
    ((Instr.abs d t).wf s.cfg = true → ∃ s', exec (.abs d t) s = .next s' ∧
      s.writesOnly d (.ofFn fun i => fabs s.cfg.flen ((fetchVector4 s t).get i)) s')

/-- ADD, SUB and MUL by component (42_componentwise.md R112, R113, R114). -/
def Obligations.AddSubMulResults : Prop :=
  ∀ (s : State) (d : DstOperand) (t u : SrcOperand), s.registersWf = true →
    let x := fetchVector4 s t
    let y := fetchVector4 s u
    ((Instr.add d t u).wf s.cfg = true → ∃ s', exec (.add d t u) s = .next s' ∧
      s.writesOnly d (.ofFn fun i => fadd s.cfg.flen (nanFor s i) (x.get i) (y.get i)) s') ∧
    ((Instr.sub d t u).wf s.cfg = true → ∃ s', exec (.sub d t u) s = .next s' ∧
      s.writesOnly d (.ofFn fun i => fsub s.cfg.flen (nanFor s i) (x.get i) (y.get i)) s') ∧
    ((Instr.mul d t u).wf s.cfg = true → ∃ s', exec (.mul d t u) s = .next s' ∧
      s.writesOnly d (.ofFn fun i => fmul s.cfg.flen (nanFor s i) (x.get i) (y.get i)) s')

/-- MAD rounds the product, then the sum (42_componentwise.md R115; two roundings are decision D5). -/
def Obligations.MadRoundsTwice : Prop :=
  ∀ (s : State) (d : DstOperand) (t u v : SrcOperand), s.registersWf = true → (Instr.mad d t u v).wf s.cfg = true →
    ∃ s', exec (.mad d t u v) s = .next s' ∧
      s.writesOnly d (.ofFn fun i => fadd s.cfg.flen (nanFor s i)
        (fmul s.cfg.flen (nanFor s i) ((fetchVector4 s t).get i) ((fetchVector4 s u).get i))
        ((fetchVector4 s v).get i)) s'

/-- MIN and MAX copy one of their operands by component; a NaN or a tie gives the second (42_componentwise.md R116,
R117; the choice on a NaN or a tie is decision D7). -/
def Obligations.MinMaxResults : Prop :=
  ∀ (s : State) (d : DstOperand) (t u : SrcOperand), s.registersWf = true →
    let x := fetchVector4 s t
    let y := fetchVector4 s u
    ((Instr.min d t u).wf s.cfg = true → ∃ s', exec (.min d t u) s = .next s' ∧
      s.writesOnly d (.ofFn fun i => if flt s.cfg.flen (x.get i) (y.get i) then x.get i else y.get i) s') ∧
    ((Instr.max d t u).wf s.cfg = true → ∃ s', exec (.max d t u) s = .next s' ∧
      s.writesOnly d (.ofFn fun i => if flt s.cfg.flen (y.get i) (x.get i) then x.get i else y.get i) s')

/-- SLT and SGE write `1.0` or `+0` by component (42_componentwise.md R118, R119). -/
def Obligations.SltSgeResults : Prop :=
  ∀ (s : State) (d : DstOperand) (t u : SrcOperand), s.registersWf = true →
    let x := fetchVector4 s t
    let y := fetchVector4 s u
    ((Instr.slt d t u).wf s.cfg = true → ∃ s', exec (.slt d t u) s = .next s' ∧
      s.writesOnly d (.ofFn fun i => if flt s.cfg.flen (x.get i) (y.get i) then fone s.cfg.flen else 0) s') ∧
    ((Instr.sge d t u).wf s.cfg = true → ∃ s', exec (.sge d t u) s = .next s' ∧
      s.writesOnly d (.ofFn fun i => if fge s.cfg.flen (x.get i) (y.get i) then fone s.cfg.flen else 0) s')

/-- DP3, DP4 and DPH: rounded products summed from left to right, the same scalar in all components
(43_dot_products.md R130, R131, R132; the order of the sums is decision D6). -/
def Obligations.DotProductResults : Prop :=
  ∀ (s : State) (d : DstOperand) (t u : SrcOperand), s.registersWf = true →
    let x := fetchVector4 s t
    let y := fetchVector4 s u
    let add := fadd s.cfg.flen (nanFor s 0)
    let mul := fmul s.cfg.flen (nanFor s 0)
    let three := add (add (mul x.x y.x) (mul x.y y.y)) (mul x.z y.z)
    ((Instr.dp3 d t u).wf s.cfg = true → ∃ s', exec (.dp3 d t u) s = .next s' ∧
      s.writesOnly d (.splat three) s') ∧
    ((Instr.dp4 d t u).wf s.cfg = true → ∃ s', exec (.dp4 d t u) s = .next s' ∧
      s.writesOnly d (.splat (add three (mul x.w y.w))) s') ∧
    ((Instr.dph d t u).wf s.cfg = true → ∃ s', exec (.dph d t u) s = .next s' ∧
      s.writesOnly d (.splat (add three y.w)) s')

/-- DST: `(1.0, t[1] * u[1], t[2], u[3])` (43_dot_products.md R133). -/
def Obligations.DistanceVectorResult : Prop :=
  ∀ (s : State) (d : DstOperand) (t u : SrcOperand), s.registersWf = true → (Instr.dst d t u).wf s.cfg = true →
    ∃ s', exec (.dst d t u) s = .next s' ∧
      s.writesOnly d ⟨fone s.cfg.flen,
        fmul s.cfg.flen (nanFor s 1) (fetchVector4 s t).y (fetchVector4 s u).y, (fetchVector4 s t).z,
        (fetchVector4 s u).w⟩ s'

/-- RCP and RSQ: the reciprocal of the scalar and of the root of its magnitude, in all components
(44_scalar_special.md R140, R142; correct rounding is decision D29). -/
def Obligations.ReciprocalResults : Prop :=
  ∀ (s : State) (d : DstOperand) (t : SrcOperand), s.registersWf = true →
    let a := fetchVector1 s t
    ((Instr.rcp d t).wf s.cfg = true → ∃ s', exec (.rcp d t) s = .next s' ∧
      s.writesOnly d (.splat (if feq s.cfg.flen a (fone s.cfg.flen) then fone s.cfg.flen
        else frcp s.cfg.flen (nanFor s 0) a)) s') ∧
    ((Instr.rsq d t).wf s.cfg = true → ∃ s', exec (.rsq d t) s = .next s' ∧
      s.writesOnly d (.splat (frcp s.cfg.flen (nanFor s 0) (fsqrt s.cfg.flen (nanFor s 0) (fabs s.cfg.flen a)))) s')

/-- RCC: the reciprocal clamped into `[RCC_MIN, RCC_MAX]` or its negative mirror by its sign bit, NaN for NaN
(44_scalar_special.md R141; zeros and infinities are decision D28). -/
def Obligations.ClampedReciprocalResult : Prop :=
  ∀ (s : State) (d : DstOperand) (t : SrcOperand), s.registersWf = true → (Instr.rcc d t).wf s.cfg = true →
    let fl := s.cfg.flen
    let a := fetchVector1 s t
    let r := if feq fl a (fone fl) then fone fl else frcp fl (nanFor s 0) a
    ∃ s' x, exec (.rcc d t) s = .next s' ∧ s.writesOnly d (.splat x) s' ∧
      (isNan fl r = true → isNan fl x = true) ∧
      (isNan fl r = false → signOf fl r = false → x = clampHi fl (clampLo fl r s.cfg.rccMin) s.cfg.rccMax) ∧
      (isNan fl r = false → signOf fl r = true →
        x = clampLo fl (clampHi fl r (fneg fl s.cfg.rccMin)) (fneg fl s.cfg.rccMax))

/-- With finite positive ordered bounds RCC never answers a magnitude outside them for a non-NaN scalar, zeros and
infinities included, and keeps the scalar's sign (44_scalar_special.md R141; decision D28). -/
def Obligations.RccStaysWithinBounds : Prop :=
  ∀ (c : Config) (q : Nat → Comp) (a : Comp), isNan c.flen a = false →
    0 < sortKey c.flen c.rccMin → sortKey c.flen c.rccMin ≤ sortKey c.flen c.rccMax →
    isFinite c.flen c.rccMax = true →
    ∃ x, rccVec c q a = .splat x ∧ isFinite c.flen x = true ∧ signOf c.flen x = signOf c.flen a ∧
      sortKey c.flen c.rccMin ≤ magOf c.flen x ∧ (magOf c.flen x : Int) ≤ sortKey c.flen c.rccMax

/-- EXP: `(2^floor(a), a - floor(a), 2^a, 1.0)` with its NaN and infinity rows (44_scalar_special.md R143; the layout
is the spec's own from general knowledge, log 11). -/
def Obligations.ExpResult : Prop :=
  ∀ (s : State) (d : DstOperand) (t : SrcOperand), s.registersWf = true → (Instr.exp d t).wf s.cfg = true →
    let fl := s.cfg.flen
    let a := fetchVector1 s t
    let f := ffloor fl (nanFor s 1) a
    ∃ s' r, exec (.exp d t) s = .next s' ∧ s.writesOnly d r s' ∧ r.w = fone fl ∧
      (isNan fl a = true → isNan fl r.x = true ∧ isNan fl r.y = true ∧ isNan fl r.z = true) ∧
      (isNan fl a = false → r.x = fexp2 fl (nanFor s 0) f ∧ r.z = fexp2 fl (nanFor s 2) a) ∧
      (isInf fl a = true → r.y = 0) ∧
      (isFinite fl a = true → r.y = fsub fl (nanFor s 1) a f)

/-- LOG of the magnitude: `(exponent, mantissa, log2, 1.0)` with its NaN, zero and infinity rows
(44_scalar_special.md R145; the layout is the spec's own from general knowledge, log 11). -/
def Obligations.LogResult : Prop :=
  ∀ (s : State) (d : DstOperand) (t : SrcOperand), s.registersWf = true → (Instr.log d t).wf s.cfg = true →
    let fl := s.cfg.flen
    let a := fabs fl (fetchVector1 s t)
    ∃ s' r, exec (.log d t) s = .next s' ∧ s.writesOnly d r s' ∧ r.w = fone fl ∧
      (isNan fl a = true → isNan fl r.x = true ∧ isNan fl r.y = true ∧ isNan fl r.z = true) ∧
      (magOf fl a = 0 → r.x = finf fl true ∧ r.y = fone fl ∧ r.z = finf fl true) ∧
      (isInf fl a = true → r.x = finf fl false ∧ r.y = fone fl ∧ r.z = finf fl false) ∧
      (isFinite fl a = true → magOf fl a ≠ 0 →
        r.z = flog2 fl (nanFor s 2) a ∧
        ∃ k : Int, r.x = intFloat fl k ∧ valueOf fl r.x = k ∧ 1 ≤ valueOf fl r.y ∧ valueOf fl r.y < 2 ∧
          valueOf fl a = valueOf fl r.y * (2 : ℚ) ^ k)

/-- LIT: the clamps and the power through the two units (44_scalar_special.md R147; the form of the power and of the
clamps is decision D27). -/
def Obligations.LitResult : Prop :=
  ∀ (s : State) (d : DstOperand) (t : SrcOperand), s.registersWf = true → (Instr.lit d t).wf s.cfg = true →
    let fl := s.cfg.flen
    let q := nanFor s 2
    let v := fetchVector4 s t
    let wMax := fsub fl q (intFloat fl 128) s.cfg.litEps
    let x := clampLo fl v.x 0
    let y := clampLo fl v.y 0
    let w := clampHi fl (clampLo fl v.w (fneg fl wMax)) wMax
    ∃ s', exec (.lit d t) s = .next s' ∧
      s.writesOnly d ⟨fone fl, x, if fgt fl x 0 then fexp2 fl q (fmul fl q w (flog2 fl q y)) else 0, fone fl⟩ s'

/-- The table of LIT's corner cases, row by row, for both formats (44_scalar_special.md R148, derived by the spec from
its other rules). -/
def Obligations.LitCornerCases : Prop :=
  ∀ (c : Config) (q : Nat → Comp) (t : Vec4), isNan c.flen (q 2) = true →
    (c.flen = .f32 ∧ c.litEps = Config.default32.litEps ∨ c.flen = .f64 ∧ c.litEps = Config.default64.litEps) →
    let fl := c.flen
    let r := litVec c q t
    let w := litW c (q 2) t.w
    let wMax := litWMax c (q 2)
    let p := fmul fl (q 2) w (flog2 fl (q 2) (clampLo fl t.y 0))
    let one := fone fl
    (fgt fl t.w wMax = true → w = wMax) ∧ (flt fl t.w (fneg fl wMax) = true → w = fneg fl wMax) ∧
    (flt fl t.x 0 = true → r = ⟨one, 0, 0, one⟩) ∧
    (isNan fl t.x = true ∨ sortKey fl t.x = 0 → r = ⟨one, t.x, 0, one⟩) ∧
    (fgt fl t.x 0 = true →
      r.x = one ∧ r.y = t.x ∧ r.w = one ∧
      (isNan fl t.y = false → sortKey fl t.y ≤ 0 →
        (fgt fl t.w 0 = true → r.z = 0) ∧ (flt fl t.w 0 = true → r.z = finf fl false) ∧
        (isNan fl t.w = false → sortKey fl t.w = 0 → r.z = q 2)) ∧
      (isInf fl t.y = true → signOf fl t.y = false →
        (fgt fl t.w 0 = true → r.z = finf fl false) ∧ (flt fl t.w 0 = true → r.z = 0) ∧
        (isNan fl t.w = false → sortKey fl t.w = 0 → r.z = q 2)) ∧
      (isNan fl t.w = false → feq fl t.y one = true → r.z = one) ∧
      (isNan fl t.y = true ∨ isNan fl t.w = true → r.z = q 2) ∧
      (isFinite fl p = true → (fl.emax : ℚ) + 1 ≤ valueOf fl p → r.z = finf fl false) ∧
      (isFinite fl p = true → valueOf fl p < fl.emin → r.z = 0) ∧
      (∀ k n : Int, isFinite fl t.y = true → valueOf fl t.y = (2 : ℚ) ^ k → isNan fl w = false →
        valueOf fl w * k = n → fl.emin ≤ n → n ≤ fl.emax → r.z = pow2Float fl n))

/-- ARL: `AR` gets the floor of the scalar where it fits, else some value of its range; nothing else changes but
`ip` (45_address_end.md R160, 41_fp_units.md R96; the range of `AR` and the free value are decision D9,
log 8). -/
def Obligations.ArlLoadsFloor : Prop :=
  ∀ (s : State) (t : SrcOperand), (Instr.arl t).wf s.cfg = true →
    let a := fetchVector1 s t
    ∃ s', exec (.arl t) s = .next s' ∧ inArRange s.cfg.arWidth s'.ar = true ∧
      (∀ k : Int, isFinite s.cfg.flen a = true → (k : ℚ) ≤ valueOf s.cfg.flen a → valueOf s.cfg.flen a < k + 1 →
        inArRange s.cfg.arWidth k = true → s'.ar = k) ∧
      s.sameRegisters s' ∧ s'.output = s.output ∧ s'.temporary = s.temporary ∧ s.sameProtected s' ∧
      (∀ i, s'.imem.read i = s.imem.read i) ∧ s'.ip = s.ip + 1 ∧ s.sameControl s'

/-- SUB gives the same state as ADD with the negate flag of its second operand inverted (42_componentwise.md R113,
derived by the spec from R86; that even NaN payloads agree is the model's, log 7). -/
def Obligations.SubEqualsAddOfNegated : Prop :=
  ∀ (s : State) (d : DstOperand) (t u : SrcOperand),
    exec (.sub d t u) s = exec (.add d t { u with neg := !u.neg }) s

/-- ADD, MUL, DP3 and DP4 give the same state with their two legal operands exchanged (42_componentwise.md R120 (b),
43_dot_products.md R130, R131, derived by the spec; that even NaN payloads agree is the model's, log 7). -/
def Obligations.CommutativeInstructions : Prop :=
  ∀ (s : State) (d : DstOperand) (t u : SrcOperand), t.wf s.cfg = true → u.wf s.cfg = true →
    exec (.add d t u) s = exec (.add d u t) s ∧ exec (.mul d t u) s = exec (.mul d u t) s ∧
    exec (.dp3 d t u) s = exec (.dp3 d u t) s ∧ exec (.dp4 d t u) s = exec (.dp4 d u t) s

/-! ### The float units -/

/-- Rounding is to nearest with ties to even, subnormals kept, overflow to infinity, for every real m * 2^e
(41_fp_units.md R81, decision D2). -/
def Obligations.RoundingIsToNearestEven : Prop :=
  ∀ (fl : Flen) (m : Nat) (e : Int), NearestEven fl ((m : ℝ) * (2 : ℝ) ^ e) (roundMag fl m e false)

/-- FADD: the rows of the table, and the rounded exact sum (41_fp_units.md R85, general knowledge of IEEE-754). -/
def Obligations.AddRoundsExactSum : Prop :=
  ∀ (fl : Flen) (q a b : Comp),
    ((isNan fl a = true ∨ isNan fl b = true) → fadd fl q a b = q) ∧
    (isInf fl a = true → isInf fl b = true → signOf fl a ≠ signOf fl b → fadd fl q a b = q) ∧
    (isInf fl a = true → isNan fl b = false → (isInf fl b = true → signOf fl a = signOf fl b) →
      fadd fl q a b = finf fl (signOf fl a)) ∧
    (isInf fl b = true → isFinite fl a = true → fadd fl q a b = finf fl (signOf fl b)) ∧
    (isFinite fl a = true → isFinite fl b = true → valueOf fl a + valueOf fl b = 0 →
      fadd fl q a b = fzero fl (signOf fl a && signOf fl b)) ∧
    (isFinite fl a = true → isFinite fl b = true → valueOf fl a + valueOf fl b ≠ 0 →
      signOf fl (fadd fl q a b) = decide (valueOf fl a + valueOf fl b < 0) ∧
      NearestEven fl |((valueOf fl a + valueOf fl b : ℚ) : ℝ)| (magOf fl (fadd fl q a b)))

/-- FMUL: the rows of the table, and the rounded exact product (41_fp_units.md R87, general knowledge of IEEE-754). -/
def Obligations.MulRoundsExactProduct : Prop :=
  ∀ (fl : Flen) (q a b : Comp),
    ((isNan fl a = true ∨ isNan fl b = true) → fmul fl q a b = q) ∧
    ((isInf fl a = true ∧ magOf fl b = 0) ∨ (magOf fl a = 0 ∧ isInf fl b = true) → fmul fl q a b = q) ∧
    ((isInf fl a = true ∧ isNan fl b = false ∧ magOf fl b ≠ 0) ∨
      (isInf fl b = true ∧ isNan fl a = false ∧ magOf fl a ≠ 0) →
      fmul fl q a b = finf fl (signOf fl a != signOf fl b)) ∧
    (isFinite fl a = true → isFinite fl b = true →
      signOf fl (fmul fl q a b) = (signOf fl a != signOf fl b) ∧
      NearestEven fl |((valueOf fl a * valueOf fl b : ℚ) : ℝ)| (magOf fl (fmul fl q a b)))

/-- FRCP: the rows of the table, and the correctly rounded quotient, which is never zero (41_fp_units.md R88,
decision D29). -/
def Obligations.ReciprocalIsCorrectlyRounded : Prop :=
  ∀ (fl : Flen) (q a : Comp),
    (isNan fl a = true → frcp fl q a = q) ∧
    (magOf fl a = 0 → frcp fl q a = finf fl (signOf fl a)) ∧
    (isInf fl a = true → frcp fl q a = fzero fl (signOf fl a)) ∧
    (∀ k : Int, -fl.emax ≤ k → k ≤ fl.emax → a = pow2Float fl k → frcp fl q a = pow2Float fl (-k)) ∧
    (isFinite fl a = true → magOf fl a ≠ 0 →
      signOf fl (frcp fl q a) = signOf fl a ∧ magOf fl (frcp fl q a) ≠ 0 ∧
      NearestEven fl |(((valueOf fl a)⁻¹ : ℚ) : ℝ)| (magOf fl (frcp fl q a)))

/-- FSQRT: the rows of the table, and the correctly rounded root (41_fp_units.md R89, general knowledge of IEEE-754). -/
def Obligations.SquareRootIsCorrectlyRounded : Prop :=
  ∀ (fl : Flen) (q a : Comp),
    (isNan fl a = true → fsqrt fl q a = q) ∧
    (magOf fl a = 0 → fsqrt fl q a = fzero fl (signOf fl a)) ∧
    (isInf fl a = true → signOf fl a = false → fsqrt fl q a = finf fl false) ∧
    (isNan fl a = false → magOf fl a ≠ 0 → signOf fl a = true → fsqrt fl q a = q) ∧
    (isFinite fl a = true → magOf fl a ≠ 0 → signOf fl a = false →
      signOf fl (fsqrt fl q a) = false ∧
      NearestEven fl (Real.sqrt (valueOf fl a : ℝ)) (magOf fl (fsqrt fl q a)))

/-- The comparisons are the order of the extended reals, false on NaN, both zeros equal (41_fp_units.md R91, decision
D8). -/
def Obligations.ComparisonsAreExtendedRealOrder : Prop :=
  ∀ (fl : Flen) (a b : Comp),
    (flt fl a b = true ↔ FVal.lt (unpack fl a) (unpack fl b)) ∧
    (fgt fl a b = true ↔ FVal.lt (unpack fl b) (unpack fl a)) ∧
    (feq fl a b = true ↔ FVal.same (unpack fl a) (unpack fl b)) ∧
    (fge fl a b = true ↔ FVal.lt (unpack fl b) (unpack fl a) ∨ FVal.same (unpack fl a) (unpack fl b))

/-- FFLOOR: the largest integer not greater, exact; integral floats, zeros and infinities as they are
(41_fp_units.md R95). -/
def Obligations.FloorIsLargestInteger : Prop :=
  ∀ (fl : Flen) (q a : Comp),
    (isNan fl a = true → ffloor fl q a = q) ∧
    (isInf fl a = true → ffloor fl q a = a) ∧
    (isFinite fl a = true → isFinite fl (ffloor fl q a) = true ∧
      ∃ k : Int, valueOf fl (ffloor fl q a) = k ∧ (k : ℚ) ≤ valueOf fl a ∧ valueOf fl a < k + 1 ∧
        (valueOf fl a = k → ffloor fl q a = a) ∧ (0 < valueOf fl a → k = 0 → ffloor fl q a = 0))

/-- FLOG2: the properties 1 to 7 (41_fp_units.md R97, decision D30); the eighth is that `flog2` is a function of its argument. -/
def Obligations.Log2UnitProperties : Prop :=
  ∀ (fl : Flen) (q : Comp), isNan fl q = true →
    (∀ a, isNan fl a = true → isNan fl (flog2 fl q a) = true) ∧
    (∀ a, magOf fl a = 0 → flog2 fl q a = finf fl true) ∧
    (∀ a, isInf fl a = true → signOf fl a = false → flog2 fl q a = finf fl false) ∧
    (∀ a, flt fl a 0 = true → isNan fl (flog2 fl q a) = true) ∧
    (∀ (a : Comp) (k : Int), isFinite fl a = true → valueOf fl a = (2 : ℚ) ^ k →
      flog2 fl q a = intFloat fl k ∧ isFinite fl (flog2 fl q a) = true ∧ valueOf fl (flog2 fl q a) = k) ∧
    (∀ (a : Comp) (k : Int), isFinite fl a = true → (2 : ℚ) ^ k < valueOf fl a → valueOf fl a < (2 : ℚ) ^ (k + 1) →
      isFinite fl (flog2 fl q a) = true ∧ (k : ℚ) ≤ valueOf fl (flog2 fl q a) ∧
      valueOf fl (flog2 fl q a) ≤ k + 1) ∧
    (∀ a b : Comp, flt fl 0 a = true → fge fl b a = true → fge fl (flog2 fl q b) (flog2 fl q a) = true)

/-- FEXP2: the properties 1 to 7 (41_fp_units.md R98, decisions D25, D30); the eighth is that `fexp2` is a function of its argument. -/
def Obligations.Exp2UnitProperties : Prop :=
  ∀ (fl : Flen) (q : Comp), isNan fl q = true →
    (∀ a, isNan fl a = true → isNan fl (fexp2 fl q a) = true) ∧
    (∀ a, isInf fl a = true → fexp2 fl q a = if signOf fl a then 0 else finf fl false) ∧
    (∀ a, isFinite fl a = true → (fl.emax : ℚ) + 1 ≤ valueOf fl a → fexp2 fl q a = finf fl false) ∧
    (∀ a, isFinite fl a = true → valueOf fl a < (fl.emin : ℚ) → fexp2 fl q a = 0) ∧
    (∀ (a : Comp) (k : Int), isFinite fl a = true → valueOf fl a = k → fl.emin ≤ k → k ≤ fl.emax →
      fexp2 fl q a = pow2Float fl k ∧ isFinite fl (fexp2 fl q a) = true ∧ valueOf fl (fexp2 fl q a) = (2 : ℚ) ^ k) ∧
    (∀ (a : Comp) (k : Int), isFinite fl a = true → (k : ℚ) < valueOf fl a → valueOf fl a < k + 1 → fl.emin ≤ k →
      k ≤ fl.emax → fge fl (fexp2 fl q a) (pow2Float fl k) = true ∧
        fge fl (pow2Float fl (k + 1)) (fexp2 fl q a) = true) ∧
    (pow2Float fl (fl.emax + 1) = finf fl false) ∧
    (∀ a b : Comp, fge fl b a = true → fge fl (fexp2 fl q b) (fexp2 fl q a) = true)

/-- Every generated NaN is a NaN of `FLEN` bits, whatever was drawn (41_fp_units.md R82, decision D3; log 7). -/
def Obligations.GeneratedNanIsNan : Prop :=
  ∀ (fl : Flen) (n : Nat), isNan fl (drawNan fl n) = true ∧ compFits fl (drawNan fl n) = true

/-- FNEG inverts and FABS clears the sign bit, and every other bit stays; so a NaN stays a NaN, the order is mirrored,
and a magnitude keeps its order (41_fp_units.md R83, R84). -/
def Obligations.SignUnitsChangeOnlySignBit : Prop :=
  ∀ (fl : Flen) (a : Comp),
    (∀ i < 64, (fneg fl a).getLsbD i = if i = fl.bits - 1 then !a.getLsbD i else a.getLsbD i) ∧
    (∀ i < 64, (fabs fl a).getLsbD i = if i = fl.bits - 1 then false else a.getLsbD i) ∧
    isNan fl (fneg fl a) = isNan fl a ∧ isNan fl (fabs fl a) = isNan fl a ∧
    sortKey fl (fneg fl a) = -sortKey fl a ∧ sortKey fl (fabs fl a) = magOf fl a
end

