-- ==== Sys2Proof/Laws/Decode.lean ====
section
/-! SUPPORT. The fields of encoded operands and words read back. -/

namespace Sys2Proof

/-! ### Fields of an append -/

theorem extract_append_low {n m : Nat} (a : BitVec n) (b : BitVec m) (k l : Nat) (h : k + l ≤ m) :
    (a ++ b).extractLsb' k l = b.extractLsb' k l := by
  apply BitVec.eq_of_getLsbD_eq
  intro i hi
  simp only [BitVec.getLsbD_extractLsb', BitVec.getLsbD_append, hi, show k + i < m by omega, if_true, decide_true,
    Bool.true_and]

theorem extract_append_high {n m : Nat} (a : BitVec n) (b : BitVec m) (k l : Nat) (h : m ≤ k) :
    (a ++ b).extractLsb' k l = a.extractLsb' (k - m) l := by
  apply BitVec.eq_of_getLsbD_eq
  intro i hi
  simp only [BitVec.getLsbD_extractLsb', BitVec.getLsbD_append, hi, show ¬ (k + i < m) by omega, if_false,
    decide_true, Bool.true_and]
  congr 1
  omega

theorem extract_cast {n m : Nat} (h : n = m) (a : BitVec n) (k l : Nat) :
    (a.cast h).extractLsb' k l = a.extractLsb' k l := by subst h; rfl

theorem extract_all {n : Nat} (a : BitVec n) : a.extractLsb' 0 n = a := by
  apply BitVec.eq_of_getLsbD_eq
  intro i hi
  simp [hi]

theorem getLsbD_eq_extract {n : Nat} (a : BitVec n) (k : Nat) : a.getLsbD k = (a.extractLsb' k 1).getLsbD 0 := by
  simp

theorem ofBool_getLsbD_zero (b : Bool) : (BitVec.ofBool b).getLsbD 0 = b := by cases b <;> rfl

/-! ### Operands -/

theorem Region.ofCode_code (r : Region) : Region.ofCode r.code = r := by cases r <;> rfl

theorem toFin_swzCode (c : CIdx) : (swzCode c).toFin = c := rfl

theorem decodeSrc_encodeSrc (o : SrcOperand) : decodeSrc (encodeSrc o) = o := by
  obtain ⟨r, i, s0, s1, s2, s3, n, b⟩ := o
  unfold decodeSrc
  rw [getLsbD_eq_extract _ 18, getLsbD_eq_extract _ 19]
  simp (disch := decide) only [encodeSrc, extract_cast, extract_append_low, extract_append_high, Nat.reduceSub,
    extract_all, Region.ofCode_code, toFin_swzCode, ofBool_getLsbD_zero]

theorem srcReservedZero_encodeSrc (o : SrcOperand) : srcReservedZero (encodeSrc o) = true := by
  simp (disch := decide) only [srcReservedZero, encodeSrc, extract_cast, extract_append_high, Nat.reduceSub,
    extract_all]
  rfl

theorem decodeDst_encodeW0 (op : BitVec 5) (d : DstOperand) : decodeDst (encodeW0 op d) = d := by
  obtain ⟨r, i, m⟩ := d
  simp (disch := decide) only [decodeDst, encodeW0, extract_cast, extract_append_low, extract_append_high,
    Nat.reduceSub, extract_all, Region.ofCode_code]

theorem dstReservedZero_encodeW0 (op : BitVec 5) (d : DstOperand) : dstReservedZero (encodeW0 op d) = true := by
  simp (disch := decide) only [dstReservedZero, encodeW0, extract_cast, extract_append_low,
    extract_append_high, Nat.reduceSub, extract_all]
  rfl

theorem opcode_encodeW0 (op : BitVec 5) (d : DstOperand) : (encodeW0 op d).extractLsb' 0 5 = op := by
  simp (disch := decide) only [encodeW0, extract_cast, extract_append_low, extract_all]

theorem opcode_encodeW0NoDst (op : BitVec 5) : (encodeW0NoDst op).extractLsb' 0 5 = op := by
  simp (disch := decide) only [encodeW0NoDst, extract_cast, extract_append_low, extract_all]

/-! ### Words -/

/-- The sub-words of an encoded instruction are those it was put together from. -/
theorem subWord_encode (i : Instr) :
    subWord (encode i) 0 = encodeW0Of i ∧ subWord (encode i) 1 = encodeSrcAt i.srcs 0 ∧
      subWord (encode i) 2 = encodeSrcAt i.srcs 1 ∧ subWord (encode i) 3 = encodeSrcAt i.srcs 2 := by
  simp (disch := decide) only [subWord, encode, extract_cast, extract_append_low, extract_append_high,
    Nat.reduceMul, Nat.reduceSub, extract_all, and_self]

end Sys2Proof
end

