-- ==== Sys2Proof/Laws/Float.lean ====
section
/-! SUPPORT. Bits and values of floats, and what the bounded search of the log2 and exp2 units can answer. -/

namespace Sys2Proof

/-! ### Bits -/

theorem Flen.infMag_lt (fl : Flen) : fl.infMag < 2 ^ (fl.bits - 1) := by cases fl <;> decide

theorem Flen.infMag_eq (fl : Flen) : fl.infMag + 2 ^ fl.fracBits = 2 ^ (fl.bits - 1) := by cases fl <;> decide

theorem toNat_ofSignMag (fl : Flen) (n : Bool) {k : Nat} (h : k < 2 ^ (fl.bits - 1)) :
    (ofSignMag fl n k).toNat = k + if n then 2 ^ (fl.bits - 1) else 0 := by
  unfold ofSignMag
  rw [BitVec.toNat_ofNat, Nat.mod_eq_of_lt]
  cases fl <;> cases n <;> simp only [Flen.bits, if_true, if_false, Bool.false_eq_true] at * <;> omega

@[simp] theorem magOf_ofSignMag (fl : Flen) (n : Bool) {k : Nat} (h : k < 2 ^ (fl.bits - 1)) :
    magOf fl (ofSignMag fl n k) = k := by
  unfold magOf
  rw [toNat_ofSignMag fl n h]
  cases n
  · simp [Nat.mod_eq_of_lt h]
  · simp [Nat.mod_eq_of_lt h]

@[simp] theorem signOf_ofSignMag (fl : Flen) (n : Bool) {k : Nat} (h : k < 2 ^ (fl.bits - 1)) :
    signOf fl (ofSignMag fl n k) = n := by
  unfold signOf BitVec.getLsbD
  rw [toNat_ofSignMag fl n h]
  cases n
  · simpa using Nat.testBit_lt_two_pow h
  · simp only [if_true]
    rw [Nat.add_comm, Nat.testBit_two_pow_add_eq, Nat.testBit_lt_two_pow h]
    rfl

theorem compFits_ofSignMag (fl : Flen) (n : Bool) {k : Nat} (h : k < 2 ^ (fl.bits - 1)) :
    Machine.compFits fl (ofSignMag fl n k) = true := by
  unfold Machine.compFits
  rw [toNat_ofSignMag fl n h, decide_eq_true_eq]
  cases fl <;> cases n <;> simp only [Flen.bits, if_true, if_false, Bool.false_eq_true] at * <;> omega

theorem sortKey_ofSortKey (fl : Flen) {k : Int} (h : k.natAbs < 2 ^ (fl.bits - 1)) :
    sortKey fl (ofSortKey fl k) = k := by
  unfold sortKey ofSortKey
  rw [signOf_ofSignMag fl _ h, magOf_ofSignMag fl _ h]
  unfold signed
  split <;> rename_i hk <;> simp at hk <;> omega

/-! ### Classes -/

/-- A component is a NaN, an infinity or finite, and its value says which. -/
theorem unpack_cases (fl : Flen) (x : Comp) :
    (isNan fl x = true ∧ unpack fl x = .nan) ∨
      (isNan fl x = false ∧ isInf fl x = true ∧ unpack fl x = .inf (signOf fl x)) ∨
      (isNan fl x = false ∧ isInf fl x = false ∧ isFinite fl x = true ∧
        ∃ m e, unpack fl x = .fin (signOf fl x) m e ∧ (m = 0 ↔ magOf fl x = 0)) := by
  unfold isNan isInf isFinite unpack
  by_cases h1 : fl.infMag < magOf fl x
  · exact .inl ⟨by simpa using h1, by simp [h1]⟩
  · by_cases h2 : magOf fl x = fl.infMag
    · exact .inr (.inl ⟨by simpa using h1, by simpa using h2, by simp [h2]⟩)
    · refine .inr (.inr ⟨by simpa using h1, by simpa using h2, by simp; omega, ?_⟩)
      simp only [if_neg h1, if_neg h2]
      by_cases h3 : magOf fl x / 2 ^ fl.fracBits = 0
      · rw [if_pos h3]
        refine ⟨_, _, rfl, ?_⟩
        have hp : 0 < 2 ^ fl.fracBits := by positivity
        rw [Nat.mod_eq_of_lt ((Nat.div_eq_zero_iff_lt hp).1 h3)]
      · rw [if_neg h3]
        refine ⟨_, _, rfl, ?_⟩
        have hp : 0 < 2 ^ fl.fracBits := by positivity
        constructor
        · intro h; omega
        · intro h; simp [h] at h3

/-! ### The bounded search of the units -/

theorem clampInt_bounds {lo hi v : Int} (h : lo ≤ hi) : lo ≤ clampInt lo hi v ∧ clampInt lo hi v ≤ hi := by
  unfold clampInt
  split
  · omega
  · split <;> omega

theorem monotoneBelow_bounds (raw : Int → Int) :
    ∀ (d : Nat) {base lo hi : Int} (k : Int), lo ≤ hi →
      lo ≤ monotoneBelow raw d base lo hi k ∧ monotoneBelow raw d base lo hi k ≤ hi
  | 0, _, _, _, _, h => clampInt_bounds h
  | d + 1, base, lo, hi, k, h => by
    have hp := clampInt_bounds (v := raw (base + (2 ^ d : Nat))) h
    dsimp only [monotoneBelow]
    split
    · have := monotoneBelow_bounds raw d (base := base) k hp.1
      omega
    · have := monotoneBelow_bounds raw d (base := base + (2 ^ d : Nat)) k hp.2
      omega

/-- The search never falls, whatever `raw` is. -/
theorem monotoneBelow_mono (raw : Int → Int) :
    ∀ (d : Nat) {base lo hi k k' : Int}, lo ≤ hi → k ≤ k' →
      monotoneBelow raw d base lo hi k ≤ monotoneBelow raw d base lo hi k'
  | 0, _, _, _, _, _, _, _ => le_refl _
  | d + 1, base, lo, hi, k, k', h, hk => by
    have hp := clampInt_bounds (v := raw (base + (2 ^ d : Nat))) h
    dsimp only [monotoneBelow]
    by_cases h1 : k < base + (2 ^ d : Nat) <;> by_cases h2 : k' < base + (2 ^ d : Nat)
    · simp only [if_pos h1, if_pos h2]
      exact monotoneBelow_mono raw d hp.1 hk
    · simp only [if_pos h1, if_neg h2]
      exact (monotoneBelow_bounds raw d _ hp.1).2.trans (monotoneBelow_bounds raw d _ hp.2).1
    · omega
    · simp only [if_neg h1, if_neg h2]
      exact monotoneBelow_mono raw d hp.2 hk

end Sys2Proof
end

