-- ==== Sys2Proof/Laws/HostCommands.lean ====
section
/-! SUPPORT. What loading a matrix can do to the Parameter registers (R175). -/

namespace Sys2Proof.Machine

@[simp] theorem writeBlock_length (fl : Flen) (p : List Vec4) (b : Nat) (v : Nat → Vec4) :
    (writeBlock fl p b v).length = p.length := by simp [writeBlock]

/-- A block that fits: its four registers get the four vectors, every other register keeps its value. -/
theorem writeBlock_getD (fl : Flen) (p : List Vec4) (b : Nat) (v : Nat → Vec4) (h : b + 3 < p.length) (k : Nat) :
    (writeBlock fl p b v).getD k Vec4.zero =
      if b ≤ k ∧ k < b + 4 then (v (k - b)).fit fl else p.getD k Vec4.zero := by
  simp only [writeBlock, List.getD_eq_getElem?_getD, List.getElem?_set, List.length_set]
  by_cases hk : b ≤ k ∧ k < b + 4
  · obtain ⟨i, rfl⟩ := Nat.exists_eq_add_of_le hk.1
    have hi : i < 4 := by omega
    rw [if_pos hk, Nat.add_sub_cancel_left]
    interval_cases i <;>
      simp [show b < p.length by omega, show b + 1 < p.length by omega, show b + 2 < p.length by omega, h]
  · rw [if_neg hk, if_neg (by omega), if_neg (by omega), if_neg (by omega), if_neg (by omega)]

@[simp] theorem loadBinding_length (fl : Flen) (p : List Vec4) (b : Binding) :
    (loadBinding fl p b).length = p.length := by
  unfold loadBinding
  split <;> simp

end Sys2Proof.Machine
end

