-- ==== Sys2Proof/Laws/Memory.lean ====
section
/-! SUPPORT. The instruction store: every operation keeps the canonical form, and reads see writes. -/

namespace Sys2Proof.Machine

/-! ### Rising indices -/

theorem Memory.risesFrom_mono {lo lo' : Nat} (h : lo ≤ lo') :
    ∀ {m : Memory}, Memory.risesFrom lo' m = true → Memory.risesFrom lo m = true
  | [], _ => rfl
  | (i, w) :: m, hm => by
    simp only [Memory.risesFrom, Bool.and_eq_true, decide_eq_true_eq] at hm ⊢
    exact ⟨h.trans hm.1, hm.2⟩

theorem Memory.read_of_below {m : Memory} : ∀ {lo i : Nat}, Memory.risesFrom lo m = true → i < lo →
    Memory.read m i = Memory.unlisted := by
  induction m with
  | nil => intros; rfl
  | cons p m ih =>
    intro lo i h hi
    obtain ⟨j, w⟩ := p
    simp only [Memory.risesFrom, Bool.and_eq_true, decide_eq_true_eq] at h
    have : i < j := lt_of_lt_of_le hi h.1
    simp [Memory.read, this, Nat.ne_of_lt this]

theorem Memory.write_risesFrom (i : Nat) (v : IWord) :
    ∀ {m : Memory} {lo : Nat}, Memory.risesFrom lo m = true → lo ≤ i → Memory.risesFrom lo (Memory.write m i v) = true := by
  intro m
  induction m with
  | nil => intro lo _ h; by_cases hv : v = Memory.unlisted <;> simp [Memory.write, hv, Memory.risesFrom, h]
  | cons p m ih =>
    obtain ⟨j, w⟩ := p
    intro lo h hlo
    have h' := h
    simp only [Memory.risesFrom, Bool.and_eq_true, decide_eq_true_eq] at h'
    unfold Memory.write
    split
    · split
      · exact h
      · simp only [Memory.risesFrom, Bool.and_eq_true, decide_eq_true_eq]
        exact ⟨hlo, by omega, h'.2⟩
    · split
      · rename_i hij
        subst hij
        split
        · exact Memory.risesFrom_mono (by omega) h'.2
        · simp only [Memory.risesFrom, Bool.and_eq_true, decide_eq_true_eq]
          exact ⟨hlo, h'.2⟩
      · simp only [Memory.risesFrom, Bool.and_eq_true, decide_eq_true_eq]
        exact ⟨h'.1, ih h'.2 (by omega)⟩

/-- Every entry after a write is an old one or the written one, which is then not the unlisted word. -/
theorem Memory.mem_write {m : Memory} {i : Nat} {v : IWord} {p : Nat × IWord} :
    p ∈ Memory.write m i v → p ∈ m ∨ (p = (i, v) ∧ v ≠ Memory.unlisted) := by
  induction m with
  | nil => intro h; by_cases hv : v = Memory.unlisted <;> simp_all [Memory.write]
  | cons q m ih =>
    obtain ⟨j, w⟩ := q
    intro h
    unfold Memory.write at h
    split at h
    · split at h
      · exact .inl h
      · rcases List.mem_cons.1 h with h | h
        · exact .inr ⟨h, by assumption⟩
        · exact .inl h
    · split at h
      · split at h
        · exact .inl (List.mem_cons_of_mem _ h)
        · rcases List.mem_cons.1 h with h | h
          · exact .inr ⟨h, by assumption⟩
          · exact .inl (List.mem_cons_of_mem _ h)
      · rcases List.mem_cons.1 h with h | h
        · exact .inl (h ▸ List.mem_cons_self)
        · exact (ih h).imp_left (List.mem_cons_of_mem _)

/-- A write keeps the canonical form. -/
theorem Memory.write_wf {m : Memory} (h : m.wf = true) (i : Nat) (v : IWord) : (Memory.write m i v).wf = true := by
  simp only [Memory.wf, Bool.and_eq_true, List.all_eq_true] at h ⊢
  refine ⟨Memory.write_risesFrom i v h.1 (Nat.zero_le _), fun p hp => ?_⟩
  rcases Memory.mem_write hp with hp | ⟨rfl, hv⟩
  · exact h.2 p hp
  · simpa using hv

/-- A sequence of writes keeps the canonical form. -/
theorem Memory.writeFrom_wf {m : Memory} (h : m.wf = true) (i : Nat) (l : List IWord) :
    (Memory.writeFrom m i l).wf = true := by
  induction l generalizing m i with
  | nil => exact h
  | cons w l ih => exact ih (Memory.write_wf h i w) (i + 1)

/-- The store at reset has the canonical form. -/
theorem reset_imem_wf : State.reset.imem.wf = true := rfl

/-! ### Reads and writes -/

theorem Memory.read_write_other {i k : Nat} (v : IWord) (hk : k ≠ i) :
    ∀ {m : Memory} {lo : Nat}, Memory.risesFrom lo m = true → Memory.read (Memory.write m i v) k = Memory.read m k := by
  intro m
  induction m with
  | nil => intro lo _; by_cases hv : v = Memory.unlisted <;> simp [Memory.write, hv, Memory.read, hk]
  | cons p m ih =>
    obtain ⟨j, w⟩ := p
    intro lo h
    have h' := h
    simp only [Memory.risesFrom, Bool.and_eq_true, decide_eq_true_eq] at h'
    unfold Memory.write
    split
    · rename_i hij
      split
      · rfl
      · by_cases hki : k < i
        · simp [Memory.read, hk, hki, show k < j by omega, show k ≠ j by omega]
        · simp [Memory.read, hk, hki]
    · split
      · rename_i hij
        subst hij
        split
        · by_cases hki : k < i
          · rw [Memory.read_of_below h'.2 (by omega)]; simp [Memory.read, hk, hki]
          · simp [Memory.read, hk, hki]
        · simp [Memory.read, hk]
      · simp only [Memory.read, ih h'.2]

theorem Memory.read_write_same (i : Nat) (v : IWord) :
    ∀ {m : Memory} {lo : Nat}, Memory.risesFrom lo m = true → Memory.read (Memory.write m i v) i = v := by
  intro m
  induction m with
  | nil => intro lo _; by_cases hv : v = Memory.unlisted <;> simp [Memory.write, hv, Memory.read]
  | cons p m ih =>
    obtain ⟨j, w⟩ := p
    intro lo h
    have h' := h
    simp only [Memory.risesFrom, Bool.and_eq_true, decide_eq_true_eq] at h'
    unfold Memory.write
    split
    · rename_i hij
      split
      · rename_i hv
        simp [Memory.read, hij, Nat.ne_of_lt hij, hv]
      · simp [Memory.read]
    · split
      · rename_i hij
        subst hij
        split
        · rename_i hv
          rw [Memory.read_of_below h'.2 (by omega), hv]
        · simp [Memory.read]
      · rename_i h1 h2
        simp [Memory.read, h1, h2, ih h'.2]

/-- What a canonical store reads after a write: the written word there, the old words elsewhere. -/
theorem Memory.read_write {m : Memory} (h : m.wf = true) (i k : Nat) (v : IWord) :
    Memory.read (Memory.write m i v) k = if k = i then v else Memory.read m k := by
  simp only [Memory.wf, Bool.and_eq_true] at h
  split
  · rename_i hk; subst hk; exact Memory.read_write_same _ _ h.1
  · rename_i hk; exact Memory.read_write_other _ hk h.1

/-- What a canonical store reads after a sequence of writes. -/
theorem Memory.read_writeFrom {m : Memory} (h : m.wf = true) (i k : Nat) (l : List IWord) :
    Memory.read (Memory.writeFrom m i l) k =
      if i ≤ k ∧ k < i + l.length then l.getD (k - i) Memory.unlisted else Memory.read m k := by
  induction l generalizing m i with
  | nil => rw [if_neg (by simp)]; rfl
  | cons w l ih =>
    rw [Memory.writeFrom, ih (Memory.write_wf h i w), Memory.read_write h]
    by_cases hk : k = i
    · subst hk; simp
    · by_cases hin : i + 1 ≤ k ∧ k < i + 1 + l.length
      · have : i ≤ k ∧ k < i + (w :: l).length := by simp; omega
        obtain ⟨n, hn⟩ : ∃ n, k - i = n + 1 := ⟨k - i - 1, by omega⟩
        rw [if_pos hin, if_pos this, hn, show k - (i + 1) = n by omega, List.getD_cons_succ]
      · have : ¬(i ≤ k ∧ k < i + (w :: l).length) := by simp; omega
        rw [if_neg hin, if_neg hk, if_neg this]

/-- No write reaches beyond the size of the store. -/
theorem Memory.writeFrom_bounded {n : Nat} {m : Memory} (h : ∀ p ∈ m, p.1 < n) (i : Nat) (l : List IWord)
    (hl : i + l.length ≤ n) : ∀ p ∈ Memory.writeFrom m i l, p.1 < n := by
  induction l generalizing m i with
  | nil => exact h
  | cons w l ih =>
    simp only [List.length_cons] at hl
    refine ih (fun p hp => ?_) (i + 1) (by omega)
    rcases Memory.mem_write hp with hp | ⟨rfl, _⟩
    · exact h p hp
    · show i < n
      omega

end Sys2Proof.Machine
end

