-- ==== Sys2Proof/Laws/State.lean ====
section
/-! SUPPORT. One lemma per field per update of the state. -/

namespace Sys2Proof.Machine

variable (s : State)

/-! ### advance -/

@[simp] theorem State.advance_cfg : (s.advance).cfg = s.cfg := rfl
@[simp] theorem State.advance_input : (s.advance).input = s.input := rfl
@[simp] theorem State.advance_output : (s.advance).output = s.output := rfl
@[simp] theorem State.advance_temporary : (s.advance).temporary = s.temporary := rfl
@[simp] theorem State.advance_parameter : (s.advance).parameter = s.parameter := rfl
@[simp] theorem State.advance_ar : (s.advance).ar = s.ar := rfl
@[simp] theorem State.advance_ip : (s.advance).ip = s.ip + 1 := rfl
@[simp] theorem State.advance_status : (s.advance).status = s.status := rfl
@[simp] theorem State.advance_progLen : (s.advance).progLen = s.progLen := rfl
@[simp] theorem State.advance_faultCause : (s.advance).faultCause = s.faultCause := rfl
@[simp] theorem State.advance_faultIp : (s.advance).faultIp = s.faultIp := rfl
@[simp] theorem State.advance_imem : (s.advance).imem = s.imem := rfl
@[simp] theorem State.advance_draws : (s.advance).draws = s.draws := rfl
@[simp] theorem State.advance_pending : (s.advance).pending = s.pending := rfl
@[simp] theorem State.advance_reply : (s.advance).reply = s.reply := rfl

/-! ### spend -/

@[simp] theorem State.spend_cfg (k : Nat) : (s.spend k).cfg = s.cfg := rfl
@[simp] theorem State.spend_input (k : Nat) : (s.spend k).input = s.input := rfl
@[simp] theorem State.spend_output (k : Nat) : (s.spend k).output = s.output := rfl
@[simp] theorem State.spend_temporary (k : Nat) : (s.spend k).temporary = s.temporary := rfl
@[simp] theorem State.spend_parameter (k : Nat) : (s.spend k).parameter = s.parameter := rfl
@[simp] theorem State.spend_ar (k : Nat) : (s.spend k).ar = s.ar := rfl
@[simp] theorem State.spend_ip (k : Nat) : (s.spend k).ip = s.ip := rfl
@[simp] theorem State.spend_status (k : Nat) : (s.spend k).status = s.status := rfl
@[simp] theorem State.spend_progLen (k : Nat) : (s.spend k).progLen = s.progLen := rfl
@[simp] theorem State.spend_faultCause (k : Nat) : (s.spend k).faultCause = s.faultCause := rfl
@[simp] theorem State.spend_faultIp (k : Nat) : (s.spend k).faultIp = s.faultIp := rfl
@[simp] theorem State.spend_imem (k : Nat) : (s.spend k).imem = s.imem := rfl
@[simp] theorem State.spend_draws (k : Nat) : (s.spend k).draws = s.draws + k := rfl
@[simp] theorem State.spend_pending (k : Nat) : (s.spend k).pending = s.pending := rfl
@[simp] theorem State.spend_reply (k : Nat) : (s.spend k).reply = s.reply := rfl

/-! ### accept -/

@[simp] theorem State.accept_cfg : (s.accept).cfg = s.cfg := rfl
@[simp] theorem State.accept_input : (s.accept).input = s.input := rfl
@[simp] theorem State.accept_output : (s.accept).output = s.output := rfl
@[simp] theorem State.accept_temporary : (s.accept).temporary = s.temporary := rfl
@[simp] theorem State.accept_parameter : (s.accept).parameter = s.parameter := rfl
@[simp] theorem State.accept_ar : (s.accept).ar = s.ar := rfl
@[simp] theorem State.accept_ip : (s.accept).ip = s.ip := rfl
@[simp] theorem State.accept_status : (s.accept).status = s.status := rfl
@[simp] theorem State.accept_progLen : (s.accept).progLen = s.progLen := rfl
@[simp] theorem State.accept_faultCause : (s.accept).faultCause = s.faultCause := rfl
@[simp] theorem State.accept_faultIp : (s.accept).faultIp = s.faultIp := rfl
@[simp] theorem State.accept_imem : (s.accept).imem = s.imem := rfl
@[simp] theorem State.accept_draws : (s.accept).draws = s.draws := rfl
@[simp] theorem State.accept_pending : (s.accept).pending = s.pending := rfl
@[simp] theorem State.accept_reply : (s.accept).reply = .accepted := rfl

/-! ### refuse -/

@[simp] theorem State.refuse_cfg : (s.refuse).cfg = s.cfg := rfl
@[simp] theorem State.refuse_input : (s.refuse).input = s.input := rfl
@[simp] theorem State.refuse_output : (s.refuse).output = s.output := rfl
@[simp] theorem State.refuse_temporary : (s.refuse).temporary = s.temporary := rfl
@[simp] theorem State.refuse_parameter : (s.refuse).parameter = s.parameter := rfl
@[simp] theorem State.refuse_ar : (s.refuse).ar = s.ar := rfl
@[simp] theorem State.refuse_ip : (s.refuse).ip = s.ip := rfl
@[simp] theorem State.refuse_status : (s.refuse).status = s.status := rfl
@[simp] theorem State.refuse_progLen : (s.refuse).progLen = s.progLen := rfl
@[simp] theorem State.refuse_faultCause : (s.refuse).faultCause = s.faultCause := rfl
@[simp] theorem State.refuse_faultIp : (s.refuse).faultIp = s.faultIp := rfl
@[simp] theorem State.refuse_imem : (s.refuse).imem = s.imem := rfl
@[simp] theorem State.refuse_draws : (s.refuse).draws = s.draws := rfl
@[simp] theorem State.refuse_pending : (s.refuse).pending = s.pending := rfl
@[simp] theorem State.refuse_reply : (s.refuse).reply = .refused := rfl

/-! ### dropMove -/

@[simp] theorem State.dropMove_cfg : (s.dropMove).cfg = s.cfg := rfl
@[simp] theorem State.dropMove_input : (s.dropMove).input = s.input := rfl
@[simp] theorem State.dropMove_output : (s.dropMove).output = s.output := rfl
@[simp] theorem State.dropMove_temporary : (s.dropMove).temporary = s.temporary := rfl
@[simp] theorem State.dropMove_parameter : (s.dropMove).parameter = s.parameter := rfl
@[simp] theorem State.dropMove_ar : (s.dropMove).ar = s.ar := rfl
@[simp] theorem State.dropMove_ip : (s.dropMove).ip = s.ip := rfl
@[simp] theorem State.dropMove_status : (s.dropMove).status = s.status := rfl
@[simp] theorem State.dropMove_progLen : (s.dropMove).progLen = s.progLen := rfl
@[simp] theorem State.dropMove_faultCause : (s.dropMove).faultCause = s.faultCause := rfl
@[simp] theorem State.dropMove_faultIp : (s.dropMove).faultIp = s.faultIp := rfl
@[simp] theorem State.dropMove_imem : (s.dropMove).imem = s.imem := rfl
@[simp] theorem State.dropMove_draws : (s.dropMove).draws = s.draws := rfl
@[simp] theorem State.dropMove_pending : (s.dropMove).pending = s.pending.tail := rfl
@[simp] theorem State.dropMove_reply : (s.dropMove).reply = s.reply := rfl

/-! ### raiseFault -/

@[simp] theorem raiseFault_cfg (c : FaultCause) : (raiseFault c s).cfg = s.cfg := rfl
@[simp] theorem raiseFault_input (c : FaultCause) : (raiseFault c s).input = s.input := rfl
@[simp] theorem raiseFault_output (c : FaultCause) : (raiseFault c s).output = drawRegs s.cfg.flen s.draws s.cfg.numOut := rfl
@[simp] theorem raiseFault_temporary (c : FaultCause) : (raiseFault c s).temporary = drawRegs s.cfg.flen (s.draws + 4 * s.cfg.numOut) s.cfg.numTmp := rfl
@[simp] theorem raiseFault_parameter (c : FaultCause) : (raiseFault c s).parameter = s.parameter := rfl
@[simp] theorem raiseFault_ar (c : FaultCause) : (raiseFault c s).ar = drawAr s.cfg.arWidth (s.draws + 4 * (s.cfg.numOut + s.cfg.numTmp)) := rfl
@[simp] theorem raiseFault_ip (c : FaultCause) : (raiseFault c s).ip = s.ip := rfl
@[simp] theorem raiseFault_status (c : FaultCause) : (raiseFault c s).status = .faulted := rfl
@[simp] theorem raiseFault_progLen (c : FaultCause) : (raiseFault c s).progLen = s.progLen := rfl
@[simp] theorem raiseFault_faultCause (c : FaultCause) : (raiseFault c s).faultCause = c := rfl
@[simp] theorem raiseFault_faultIp (c : FaultCause) : (raiseFault c s).faultIp = s.ip := rfl
@[simp] theorem raiseFault_imem (c : FaultCause) : (raiseFault c s).imem = s.imem := rfl
@[simp] theorem raiseFault_draws (c : FaultCause) : (raiseFault c s).draws = s.draws + faultDraws s.cfg := rfl
@[simp] theorem raiseFault_pending (c : FaultCause) : (raiseFault c s).pending = s.pending := rfl
@[simp] theorem raiseFault_reply (c : FaultCause) : (raiseFault c s).reply = s.reply := rfl

/-! ### writeAr -/

@[simp] theorem writeAr_cfg (v : Int) : (writeAr v s).cfg = s.cfg := rfl
@[simp] theorem writeAr_input (v : Int) : (writeAr v s).input = s.input := rfl
@[simp] theorem writeAr_output (v : Int) : (writeAr v s).output = s.output := rfl
@[simp] theorem writeAr_temporary (v : Int) : (writeAr v s).temporary = s.temporary := rfl
@[simp] theorem writeAr_parameter (v : Int) : (writeAr v s).parameter = s.parameter := rfl
@[simp] theorem writeAr_ar (v : Int) : (writeAr v s).ar = v := rfl
@[simp] theorem writeAr_ip (v : Int) : (writeAr v s).ip = s.ip + 1 := rfl
@[simp] theorem writeAr_status (v : Int) : (writeAr v s).status = s.status := rfl
@[simp] theorem writeAr_progLen (v : Int) : (writeAr v s).progLen = s.progLen := rfl
@[simp] theorem writeAr_faultCause (v : Int) : (writeAr v s).faultCause = s.faultCause := rfl
@[simp] theorem writeAr_faultIp (v : Int) : (writeAr v s).faultIp = s.faultIp := rfl
@[simp] theorem writeAr_imem (v : Int) : (writeAr v s).imem = s.imem := rfl
@[simp] theorem writeAr_draws (v : Int) : (writeAr v s).draws = s.draws + drawsPerInstr := rfl
@[simp] theorem writeAr_pending (v : Int) : (writeAr v s).pending = s.pending := rfl
@[simp] theorem writeAr_reply (v : Int) : (writeAr v s).reply = s.reply := rfl

/-! ### RUN -/

@[simp] theorem hostRun_cfg : (hostRun s).cfg = s.cfg := rfl
@[simp] theorem hostRun_input : (hostRun s).input = s.input := rfl
@[simp] theorem hostRun_output : (hostRun s).output = s.output := rfl
@[simp] theorem hostRun_temporary : (hostRun s).temporary = s.temporary := rfl
@[simp] theorem hostRun_parameter : (hostRun s).parameter = s.parameter := rfl
@[simp] theorem hostRun_ar : (hostRun s).ar = s.ar := rfl
@[simp] theorem hostRun_ip : (hostRun s).ip = 0 := rfl
@[simp] theorem hostRun_status : (hostRun s).status = .running := rfl
@[simp] theorem hostRun_progLen : (hostRun s).progLen = s.progLen := rfl
@[simp] theorem hostRun_faultCause : (hostRun s).faultCause = .none := rfl
@[simp] theorem hostRun_faultIp : (hostRun s).faultIp = 0 := rfl
@[simp] theorem hostRun_imem : (hostRun s).imem = s.imem := rfl
@[simp] theorem hostRun_draws : (hostRun s).draws = s.draws := rfl
@[simp] theorem hostRun_pending : (hostRun s).pending = s.pending := rfl
@[simp] theorem hostRun_reply : (hostRun s).reply = .accepted := rfl

/-! ### INIT -/

@[simp] theorem hostInit_cfg (a : Vector Vec4 16) : (hostInit a s).cfg = s.cfg := rfl
@[simp] theorem hostInit_input (a : Vector Vec4 16) : (hostInit a s).input = a.toList.map (Vec4.fit s.cfg.flen) := rfl
@[simp] theorem hostInit_output (a : Vector Vec4 16) : (hostInit a s).output = List.replicate s.cfg.numOut (initVec s.cfg.flen) := rfl
@[simp] theorem hostInit_temporary (a : Vector Vec4 16) : (hostInit a s).temporary = List.replicate s.cfg.numTmp (initVec s.cfg.flen) := rfl
@[simp] theorem hostInit_parameter (a : Vector Vec4 16) : (hostInit a s).parameter = s.parameter := rfl
@[simp] theorem hostInit_ar (a : Vector Vec4 16) : (hostInit a s).ar = 0 := rfl
@[simp] theorem hostInit_ip (a : Vector Vec4 16) : (hostInit a s).ip = s.ip := rfl
@[simp] theorem hostInit_status (a : Vector Vec4 16) : (hostInit a s).status = s.status := rfl
@[simp] theorem hostInit_progLen (a : Vector Vec4 16) : (hostInit a s).progLen = s.progLen := rfl
@[simp] theorem hostInit_faultCause (a : Vector Vec4 16) : (hostInit a s).faultCause = s.faultCause := rfl
@[simp] theorem hostInit_faultIp (a : Vector Vec4 16) : (hostInit a s).faultIp = s.faultIp := rfl
@[simp] theorem hostInit_imem (a : Vector Vec4 16) : (hostInit a s).imem = s.imem := rfl
@[simp] theorem hostInit_draws (a : Vector Vec4 16) : (hostInit a s).draws = s.draws := rfl
@[simp] theorem hostInit_pending (a : Vector Vec4 16) : (hostInit a s).pending = s.pending := rfl
@[simp] theorem hostInit_reply (a : Vector Vec4 16) : (hostInit a s).reply = .accepted := rfl

/-! ### placing a word -/

@[simp] theorem placeWord_cfg (w : IWord) : (placeWord s w).cfg = s.cfg := rfl
@[simp] theorem placeWord_input (w : IWord) : (placeWord s w).input = s.input := rfl
@[simp] theorem placeWord_output (w : IWord) : (placeWord s w).output = s.output := rfl
@[simp] theorem placeWord_temporary (w : IWord) : (placeWord s w).temporary = s.temporary := rfl
@[simp] theorem placeWord_parameter (w : IWord) : (placeWord s w).parameter = s.parameter := rfl
@[simp] theorem placeWord_ar (w : IWord) : (placeWord s w).ar = s.ar := rfl
@[simp] theorem placeWord_ip (w : IWord) : (placeWord s w).ip = s.ip := rfl
@[simp] theorem placeWord_status (w : IWord) : (placeWord s w).status = .running := rfl
@[simp] theorem placeWord_progLen (w : IWord) : (placeWord s w).progLen = max s.progLen (s.ip + 1) := rfl
@[simp] theorem placeWord_faultCause (w : IWord) : (placeWord s w).faultCause = s.faultCause := rfl
@[simp] theorem placeWord_faultIp (w : IWord) : (placeWord s w).faultIp = s.faultIp := rfl
@[simp] theorem placeWord_imem (w : IWord) : (placeWord s w).imem = s.imem.write s.ip w := rfl
@[simp] theorem placeWord_draws (w : IWord) : (placeWord s w).draws = s.draws := rfl
@[simp] theorem placeWord_pending (w : IWord) : (placeWord s w).pending = [] := rfl
@[simp] theorem placeWord_reply (w : IWord) : (placeWord s w).reply = s.reply := rfl

/-! ### Writing a register -/

@[simp] theorem State.writeReg_cfg (r : Region) (i : Nat) (v : Vec4) : (s.writeReg r i v).cfg = s.cfg := by cases r <;> rfl
@[simp] theorem State.writeReg_ar (r : Region) (i : Nat) (v : Vec4) : (s.writeReg r i v).ar = s.ar := by cases r <;> rfl
@[simp] theorem State.writeReg_ip (r : Region) (i : Nat) (v : Vec4) : (s.writeReg r i v).ip = s.ip := by cases r <;> rfl
@[simp] theorem State.writeReg_status (r : Region) (i : Nat) (v : Vec4) : (s.writeReg r i v).status = s.status := by cases r <;> rfl
@[simp] theorem State.writeReg_progLen (r : Region) (i : Nat) (v : Vec4) : (s.writeReg r i v).progLen = s.progLen := by cases r <;> rfl
@[simp] theorem State.writeReg_faultCause (r : Region) (i : Nat) (v : Vec4) : (s.writeReg r i v).faultCause = s.faultCause := by cases r <;> rfl
@[simp] theorem State.writeReg_faultIp (r : Region) (i : Nat) (v : Vec4) : (s.writeReg r i v).faultIp = s.faultIp := by cases r <;> rfl
@[simp] theorem State.writeReg_imem (r : Region) (i : Nat) (v : Vec4) : (s.writeReg r i v).imem = s.imem := by cases r <;> rfl
@[simp] theorem State.writeReg_draws (r : Region) (i : Nat) (v : Vec4) : (s.writeReg r i v).draws = s.draws := by cases r <;> rfl
@[simp] theorem State.writeReg_pending (r : Region) (i : Nat) (v : Vec4) : (s.writeReg r i v).pending = s.pending := by cases r <;> rfl
@[simp] theorem State.writeReg_reply (r : Region) (i : Nat) (v : Vec4) : (s.writeReg r i v).reply = s.reply := by cases r <;> rfl

theorem State.writeReg_region_same (r : Region) (i : Nat) (v : Vec4) :
    (s.writeReg r i v).region r = (s.region r).set i v := by cases r <;> rfl

theorem State.writeReg_region_other (r r' : Region) (i : Nat) (v : Vec4) (h : r' ≠ r) :
    (s.writeReg r i v).region r' = s.region r' := by cases r <;> cases r' <;> first | rfl | exact absurd rfl h

/-! ### Storing a result -/

@[simp] theorem storeVector4_cfg (d : DstOperand) (r : Vec4) : (storeVector4 d r s).cfg = s.cfg := by simp [storeVector4]
@[simp] theorem storeVector4_ar (d : DstOperand) (r : Vec4) : (storeVector4 d r s).ar = s.ar := by simp [storeVector4]
@[simp] theorem storeVector4_ip (d : DstOperand) (r : Vec4) : (storeVector4 d r s).ip = s.ip := by simp [storeVector4]
@[simp] theorem storeVector4_status (d : DstOperand) (r : Vec4) : (storeVector4 d r s).status = s.status := by simp [storeVector4]
@[simp] theorem storeVector4_progLen (d : DstOperand) (r : Vec4) : (storeVector4 d r s).progLen = s.progLen := by simp [storeVector4]
@[simp] theorem storeVector4_faultCause (d : DstOperand) (r : Vec4) : (storeVector4 d r s).faultCause = s.faultCause := by simp [storeVector4]
@[simp] theorem storeVector4_faultIp (d : DstOperand) (r : Vec4) : (storeVector4 d r s).faultIp = s.faultIp := by simp [storeVector4]
@[simp] theorem storeVector4_imem (d : DstOperand) (r : Vec4) : (storeVector4 d r s).imem = s.imem := by simp [storeVector4]
@[simp] theorem storeVector4_draws (d : DstOperand) (r : Vec4) : (storeVector4 d r s).draws = s.draws := by simp [storeVector4]
@[simp] theorem storeVector4_pending (d : DstOperand) (r : Vec4) : (storeVector4 d r s).pending = s.pending := by simp [storeVector4]
@[simp] theorem storeVector4_reply (d : DstOperand) (r : Vec4) : (storeVector4 d r s).reply = s.reply := by simp [storeVector4]

@[simp] theorem writeResult_cfg (d : DstOperand) (r : Vec4) : (writeResult d r s).cfg = s.cfg := by simp [writeResult]
@[simp] theorem writeResult_ar (d : DstOperand) (r : Vec4) : (writeResult d r s).ar = s.ar := by simp [writeResult]
@[simp] theorem writeResult_ip (d : DstOperand) (r : Vec4) : (writeResult d r s).ip = s.ip + 1 := by simp [writeResult]
@[simp] theorem writeResult_status (d : DstOperand) (r : Vec4) : (writeResult d r s).status = s.status := by simp [writeResult]
@[simp] theorem writeResult_progLen (d : DstOperand) (r : Vec4) : (writeResult d r s).progLen = s.progLen := by simp [writeResult]
@[simp] theorem writeResult_faultCause (d : DstOperand) (r : Vec4) : (writeResult d r s).faultCause = s.faultCause := by simp [writeResult]
@[simp] theorem writeResult_faultIp (d : DstOperand) (r : Vec4) : (writeResult d r s).faultIp = s.faultIp := by simp [writeResult]
@[simp] theorem writeResult_imem (d : DstOperand) (r : Vec4) : (writeResult d r s).imem = s.imem := by simp [writeResult]
@[simp] theorem writeResult_draws (d : DstOperand) (r : Vec4) : (writeResult d r s).draws = s.draws + drawsPerInstr := by simp [writeResult]
@[simp] theorem writeResult_pending (d : DstOperand) (r : Vec4) : (writeResult d r s).pending = s.pending := by simp [writeResult]
@[simp] theorem writeResult_reply (d : DstOperand) (r : Vec4) : (writeResult d r s).reply = s.reply := by simp [writeResult]

@[simp] theorem writeResult_region (d : DstOperand) (r : Vec4) (r' : Region) :
    (writeResult d r s).region r' = (storeVector4 d r s).region r' := by cases r' <;> rfl

@[simp] theorem writeResult_readReg (d : DstOperand) (r : Vec4) (r' : Region) (i : Nat) :
    (writeResult d r s).readReg r' i = (storeVector4 d r s).readReg r' i := by simp [State.readReg]

end Sys2Proof.Machine
end

