-- ==== Sys2Proof/Laws/Operands.lean ====
section
/-! SUPPORT. What the operations on vectors, registers and operands do, each said once. -/

namespace Sys2Proof

/-! ### Vectors -/

@[ext] theorem Vec4.ext_get {v w : Vec4} (h : ∀ c, v.get c = w.get c) : v = w := by
  cases v; cases w
  exact congr (congr (congr (congrArg Vec4.mk (h 0)) (h 1)) (h 2)) (h 3)

@[simp] theorem Vec4.get_ofFn (f : CIdx → Comp) (c : CIdx) : (Vec4.ofFn f).get c = f c := by fin_cases c <;> rfl

@[simp] theorem Vec4.get_splat (x : Comp) (c : CIdx) : (Vec4.splat x).get c = x := by fin_cases c <;> rfl

@[simp] theorem Vec4.get_zero (c : CIdx) : Vec4.zero.get c = 0 := by fin_cases c <;> rfl

end Sys2Proof

namespace Sys2Proof.Machine

/-! ### Registers -/

theorem State.readReg_writeReg (s : State) (r r' : Region) (i i' : Nat) (v : Vec4) (h : i < (s.region r).length) :
    (s.writeReg r i v).readReg r' i' = if r' = r ∧ i' = i then v else s.readReg r' i' := by
  unfold State.readReg
  by_cases hr : r' = r
  · subst hr
    rw [State.writeReg_region_same]
    by_cases hi : i' = i
    · subst hi; simp [h]
    · simp [hi, List.getElem?_set_ne (Ne.symm hi)]
  · rw [State.writeReg_region_other _ _ _ _ _ hr, if_neg (fun h => hr h.1)]

theorem maskMerge_get (m : BitVec 4) (a b : Vec4) (c : CIdx) :
    (maskMerge m a b).get c = if m.getLsbD c then b.get c else a.get c := by fin_cases c <;> rfl

/-- The write-back (R68): enabled components of the destination get the result's, every other component of every
register is as before. -/
theorem storeVector4_readReg (s : State) (d : DstOperand) (v : Vec4) (r : Region) (i : Nat) (c : CIdx)
    (h : d.index.toNat < (s.region d.region).length) :
    ((storeVector4 d v s).readReg r i).get c =
      if (r = d.region ∧ i = d.index.toNat) ∧ d.wmask.getLsbD c = true then v.get c else (s.readReg r i).get c := by
  rw [storeVector4, State.readReg_writeReg _ _ _ _ _ _ h]
  by_cases hd : r = d.region ∧ i = d.index.toNat
  · rw [if_pos hd, maskMerge_get]
    obtain ⟨rfl, rfl⟩ := hd
    simp
  · rw [if_neg hd, if_neg (fun h => hd h.1)]

/-- A write-back leaves the length of every region. -/
theorem storeVector4_region_length (s : State) (d : DstOperand) (v : Vec4) (r : Region) :
    ((storeVector4 d v s).region r).length = (s.region r).length := by
  rw [storeVector4]
  by_cases h : r = d.region
  · subst h; simp [State.writeReg_region_same]
  · rw [State.writeReg_region_other _ _ _ _ _ h]

/-- A write-back to Output or Temporary leaves Input and Parameter. -/
theorem storeVector4_readOnly (s : State) (d : DstOperand) (v : Vec4)
    (h : d.region = .output ∨ d.region = .temporary) :
    (storeVector4 d v s).input = s.input ∧ (storeVector4 d v s).parameter = s.parameter := by
  unfold storeVector4
  rcases h with h | h <;> rw [h] <;> exact ⟨rfl, rfl⟩

/-! ### Static checks (R49) -/

theorem checkDst_eq_none (c : Config) (d : DstOperand) : checkDst c d = .none ↔ d.wf c = true := by
  obtain ⟨r, i, m⟩ := d
  cases r <;> simp [checkDst, DstOperand.wf]

theorem checkSrc_eq_none (c : Config) (o : SrcOperand) : checkSrc c o = .none ↔ o.wf c = true := by
  obtain ⟨r, i, _, _, _, _, n, b⟩ := o
  cases r <;> cases b <;> simp [checkSrc, SrcOperand.wf]

theorem firstCause_eq_none : ∀ l : List FaultCause, firstCause l = .none ↔ ∀ c ∈ l, c = .none
  | [] => by simp [firstCause]
  | c :: l => by cases c <;> simp [firstCause, firstCause_eq_none l]

/-- The static checks pass exactly on the legal operands. -/
theorem checkOperands_eq_none (c : Config) (d : Option DstOperand) (l : List SrcOperand) :
    checkOperands c d l = .none ↔ (∀ x ∈ d, x.wf c = true) ∧ ∀ o ∈ l, o.wf c = true := by
  unfold checkOperands
  rw [firstCause_eq_none]
  cases d <;> simp [checkDst_eq_none, checkSrc_eq_none]

/-- The static check of an instruction passes exactly on the legal instructions. -/
theorem staticCheck_eq_none (c : Config) (i : Instr) : staticCheck c i = .none ↔ i.wf c = true := by
  unfold staticCheck Instr.wf
  rw [checkOperands_eq_none]
  cases i.dst? <;> simp

/-! ### The instruction shapes (R61) -/

/-- All a checked instruction can do: its effect where the static checks pass, else the malformed treatment. -/
theorem checked_eq (d : Option DstOperand) (l : List SrcOperand) (s : State) (f : State → State) :
    checked d l s f =
      .next (if checkOperands s.cfg d l = .none then f s else malformed (checkOperands s.cfg d l) s) := by
  unfold checked
  cases checkOperands s.cfg d l <;> rfl

theorem checked_ok {d : Option DstOperand} {l : List SrcOperand} {s : State} (f : State → State)
    (h : checkOperands s.cfg d l = .none) : checked d l s f = .next (f s) := by rw [checked_eq, if_pos h]

theorem checked_bad {d : Option DstOperand} {l : List SrcOperand} {s : State} (f : State → State)
    (h : checkOperands s.cfg d l ≠ .none) : checked d l s f = .next (malformed (checkOperands s.cfg d l) s) := by
  rw [checked_eq, if_neg h]

/-- What `malformed` can do (R196). -/
theorem malformed_cases (c : FaultCause) (s : State) :
    (s.cfg.malformedPolicy = .fault ∧ malformed c s = raiseFault c s) ∨
      (s.cfg.malformedPolicy = .nop ∧ malformed c s = s.advance) := by
  unfold malformed
  cases h : s.cfg.malformedPolicy <;> simp

end Sys2Proof.Machine
end

