-- ==== Sys2Proof/Laws/PerInstr.lean ====
section
/-! SUPPORT. What holds of every instruction as syntax, one lemma per constructor. -/

namespace Sys2Proof.Laws

/-! ### The encoder writes the opcode number of R46 into `W[4:0]` -/

/-- The opcode field of an encoded instruction is its opcode number. -/
def OpcodeOfEncode.Statement (i : Instr) : Prop := opcodeField (encode i) = i.opcode.toNat

/-- The opcode field of an encoded instruction is the opcode field of its `W0`. -/
theorem opcodeField_encode (i : Instr) : opcodeField (encode i) = ((encodeW0Of i).extractLsb' 0 5).toNat := by
  simp (disch := decide) only [opcodeField, encode, extract_cast, extract_append_low]

theorem opcodeOfEncode_withDst (i : Instr) (d : DstOperand) (h : i.dst? = some d) : OpcodeOfEncode.Statement i := by
  rw [OpcodeOfEncode.Statement, opcodeField_encode, encodeW0Of, h]
  exact congrArg BitVec.toNat (opcode_encodeW0 _ _)

theorem opcodeOfEncode_noDst (i : Instr) (h : i.dst? = none) : OpcodeOfEncode.Statement i := by
  rw [OpcodeOfEncode.Statement, opcodeField_encode, encodeW0Of, h]
  exact congrArg BitVec.toNat (opcode_encodeW0NoDst _)

theorem OpcodeOfEncode.endProg : Statement .endProg := opcodeOfEncode_noDst _ rfl
theorem OpcodeOfEncode.mov (d : DstOperand) (t : SrcOperand) : Statement (.mov d t) := opcodeOfEncode_withDst _ d rfl
theorem OpcodeOfEncode.lit (d : DstOperand) (t : SrcOperand) : Statement (.lit d t) := opcodeOfEncode_withDst _ d rfl
theorem OpcodeOfEncode.rcp (d : DstOperand) (t : SrcOperand) : Statement (.rcp d t) := opcodeOfEncode_withDst _ d rfl
theorem OpcodeOfEncode.rsq (d : DstOperand) (t : SrcOperand) : Statement (.rsq d t) := opcodeOfEncode_withDst _ d rfl
theorem OpcodeOfEncode.exp (d : DstOperand) (t : SrcOperand) : Statement (.exp d t) := opcodeOfEncode_withDst _ d rfl
theorem OpcodeOfEncode.log (d : DstOperand) (t : SrcOperand) : Statement (.log d t) := opcodeOfEncode_withDst _ d rfl
theorem OpcodeOfEncode.mul (d : DstOperand) (t u : SrcOperand) : Statement (.mul d t u) := opcodeOfEncode_withDst _ d rfl
theorem OpcodeOfEncode.add (d : DstOperand) (t u : SrcOperand) : Statement (.add d t u) := opcodeOfEncode_withDst _ d rfl
theorem OpcodeOfEncode.dp3 (d : DstOperand) (t u : SrcOperand) : Statement (.dp3 d t u) := opcodeOfEncode_withDst _ d rfl
theorem OpcodeOfEncode.dp4 (d : DstOperand) (t u : SrcOperand) : Statement (.dp4 d t u) := opcodeOfEncode_withDst _ d rfl
theorem OpcodeOfEncode.dst (d : DstOperand) (t u : SrcOperand) : Statement (.dst d t u) := opcodeOfEncode_withDst _ d rfl
theorem OpcodeOfEncode.min (d : DstOperand) (t u : SrcOperand) : Statement (.min d t u) := opcodeOfEncode_withDst _ d rfl
theorem OpcodeOfEncode.max (d : DstOperand) (t u : SrcOperand) : Statement (.max d t u) := opcodeOfEncode_withDst _ d rfl
theorem OpcodeOfEncode.slt (d : DstOperand) (t u : SrcOperand) : Statement (.slt d t u) := opcodeOfEncode_withDst _ d rfl
theorem OpcodeOfEncode.sge (d : DstOperand) (t u : SrcOperand) : Statement (.sge d t u) := opcodeOfEncode_withDst _ d rfl
theorem OpcodeOfEncode.mad (d : DstOperand) (t u v : SrcOperand) : Statement (.mad d t u v) := opcodeOfEncode_withDst _ d rfl
theorem OpcodeOfEncode.arl (t : SrcOperand) : Statement (.arl t) := opcodeOfEncode_noDst _ rfl
theorem OpcodeOfEncode.dph (d : DstOperand) (t u : SrcOperand) : Statement (.dph d t u) := opcodeOfEncode_withDst _ d rfl
theorem OpcodeOfEncode.rcc (d : DstOperand) (t : SrcOperand) : Statement (.rcc d t) := opcodeOfEncode_withDst _ d rfl
theorem OpcodeOfEncode.sub (d : DstOperand) (t u : SrcOperand) : Statement (.sub d t u) := opcodeOfEncode_withDst _ d rfl
theorem OpcodeOfEncode.abs (d : DstOperand) (t : SrcOperand) : Statement (.abs d t) := opcodeOfEncode_withDst _ d rfl

/-! ### The static check passes exactly on the legal instructions (R49) -/

/-- An instruction passes the static check of a configuration exactly if it is legal under it. -/
def StaticCheckIffLegal.Statement (i : Instr) : Prop :=
  ∀ c : Config, Machine.staticCheck c i = .none ↔ i.wf c = true

theorem StaticCheckIffLegal.endProg : Statement .endProg := fun c => Machine.staticCheck_eq_none c _
theorem StaticCheckIffLegal.mov (d : DstOperand) (t : SrcOperand) : Statement (.mov d t) := fun c => Machine.staticCheck_eq_none c _
theorem StaticCheckIffLegal.lit (d : DstOperand) (t : SrcOperand) : Statement (.lit d t) := fun c => Machine.staticCheck_eq_none c _
theorem StaticCheckIffLegal.rcp (d : DstOperand) (t : SrcOperand) : Statement (.rcp d t) := fun c => Machine.staticCheck_eq_none c _
theorem StaticCheckIffLegal.rsq (d : DstOperand) (t : SrcOperand) : Statement (.rsq d t) := fun c => Machine.staticCheck_eq_none c _
theorem StaticCheckIffLegal.exp (d : DstOperand) (t : SrcOperand) : Statement (.exp d t) := fun c => Machine.staticCheck_eq_none c _
theorem StaticCheckIffLegal.log (d : DstOperand) (t : SrcOperand) : Statement (.log d t) := fun c => Machine.staticCheck_eq_none c _
theorem StaticCheckIffLegal.mul (d : DstOperand) (t u : SrcOperand) : Statement (.mul d t u) := fun c => Machine.staticCheck_eq_none c _
theorem StaticCheckIffLegal.add (d : DstOperand) (t u : SrcOperand) : Statement (.add d t u) := fun c => Machine.staticCheck_eq_none c _
theorem StaticCheckIffLegal.dp3 (d : DstOperand) (t u : SrcOperand) : Statement (.dp3 d t u) := fun c => Machine.staticCheck_eq_none c _
theorem StaticCheckIffLegal.dp4 (d : DstOperand) (t u : SrcOperand) : Statement (.dp4 d t u) := fun c => Machine.staticCheck_eq_none c _
theorem StaticCheckIffLegal.dst (d : DstOperand) (t u : SrcOperand) : Statement (.dst d t u) := fun c => Machine.staticCheck_eq_none c _
theorem StaticCheckIffLegal.min (d : DstOperand) (t u : SrcOperand) : Statement (.min d t u) := fun c => Machine.staticCheck_eq_none c _
theorem StaticCheckIffLegal.max (d : DstOperand) (t u : SrcOperand) : Statement (.max d t u) := fun c => Machine.staticCheck_eq_none c _
theorem StaticCheckIffLegal.slt (d : DstOperand) (t u : SrcOperand) : Statement (.slt d t u) := fun c => Machine.staticCheck_eq_none c _
theorem StaticCheckIffLegal.sge (d : DstOperand) (t u : SrcOperand) : Statement (.sge d t u) := fun c => Machine.staticCheck_eq_none c _
theorem StaticCheckIffLegal.mad (d : DstOperand) (t u v : SrcOperand) : Statement (.mad d t u v) := fun c => Machine.staticCheck_eq_none c _
theorem StaticCheckIffLegal.arl (t : SrcOperand) : Statement (.arl t) := fun c => Machine.staticCheck_eq_none c _
theorem StaticCheckIffLegal.dph (d : DstOperand) (t u : SrcOperand) : Statement (.dph d t u) := fun c => Machine.staticCheck_eq_none c _
theorem StaticCheckIffLegal.rcc (d : DstOperand) (t : SrcOperand) : Statement (.rcc d t) := fun c => Machine.staticCheck_eq_none c _
theorem StaticCheckIffLegal.sub (d : DstOperand) (t u : SrcOperand) : Statement (.sub d t u) := fun c => Machine.staticCheck_eq_none c _
theorem StaticCheckIffLegal.abs (d : DstOperand) (t : SrcOperand) : Statement (.abs d t) := fun c => Machine.staticCheck_eq_none c _

end Sys2Proof.Laws
end

