-- ==== Sys2Proof/Laws/Step.lean ====
section
/-! SUPPORT. What one step can do, said once. -/

namespace Sys2Proof.Machine

/-! ### One instruction -/

/-- The result vector of a register-writing instruction, from the state it starts in. -/
def resultOf (i : Instr) (s : State) : Vec4 :=
  let q := nanFor s
  let f := fetchVector4 s
  let x := fetchVector1 s
  match i with
  | .endProg => Vec4.zero
  | .mov _ t => movVec s.cfg q (f t)
  | .lit _ t => litVec s.cfg q (f t)
  | .rcp _ t => rcpVec s.cfg q (x t)
  | .rsq _ t => rsqVec s.cfg q (x t)
  | .exp _ t => expVec s.cfg q (x t)
  | .log _ t => logVec s.cfg q (x t)
  | .mul _ t u => mulVec s.cfg q (f t) (f u)
  | .add _ t u => addVec s.cfg q (f t) (f u)
  | .dp3 _ t u => dp3Vec s.cfg q (f t) (f u)
  | .dp4 _ t u => dp4Vec s.cfg q (f t) (f u)
  | .dst _ t u => dstVec s.cfg q (f t) (f u)
  | .min _ t u => minVec s.cfg q (f t) (f u)
  | .max _ t u => maxVec s.cfg q (f t) (f u)
  | .slt _ t u => sltVec s.cfg q (f t) (f u)
  | .sge _ t u => sgeVec s.cfg q (f t) (f u)
  | .mad _ t u v => madVec s.cfg q (f t) (f u) (f v)
  | .arl _ => Vec4.zero
  | .dph _ t u => dphVec s.cfg q (f t) (f u)
  | .rcc _ t => rccVec s.cfg q (x t)
  | .sub _ t u => subVec s.cfg q (f t) (f u)
  | .abs _ t => absVec s.cfg q (f t)

/-- What a legal instruction makes of the state. -/
def effectOf (i : Instr) (s : State) : State :=
  match i.dst? with
  | some d => writeResult d (resultOf i s) s
  | none =>
    match i.srcs with
    | t :: _ => writeAr (arlValue s (fetchVector1 s t)) s
    | [] => { s with status := .halted }

/-- All that running an instruction can do: its effect if it is legal, else the malformed treatment. -/
theorem exec_eq (i : Instr) (s : State) :
    exec i s = .next (if staticCheck s.cfg i = .none then effectOf i s else malformed (staticCheck s.cfg i) s) := by
  cases i <;> first | rfl | exact checked_eq _ _ _ _

theorem exec_ok {i : Instr} {s : State} (h : i.wf s.cfg = true) : exec i s = .next (effectOf i s) := by
  rw [exec_eq, if_pos ((staticCheck_eq_none _ _).2 h)]

/-! ### The dispatcher and the host -/

/-- All a dispatcher step can do. -/
theorem dispatcherStep_cases (s : State) :
    (s.progLen ≤ s.ip ∧ dispatcherStep s = .next { s with status := .halted }) ∨
      (s.ip < s.progLen ∧ decode (fetchWord s) = .unknown ∧
        dispatcherStep s = .next (raiseFault .unknownOpcode s)) ∨
      (∃ c, s.ip < s.progLen ∧ decode (fetchWord s) = .malformed c ∧ dispatcherStep s = .next (malformed c s)) ∨
      (∃ i, s.ip < s.progLen ∧ decode (fetchWord s) = .instr i ∧ dispatcherStep s = exec i s) := by
  unfold dispatcherStep
  by_cases h : s.progLen ≤ s.ip
  · exact .inl ⟨h, by rw [if_pos h]⟩
  · right
    simp only [if_neg h, true_and, Nat.lt_of_not_le h]
    cases hd : decode (fetchWord s) <;> simp [executeDecoded]

/-- All a step can do that answers a next state: a host command, a dispatcher step, or the passing of a silent host
move while the machine rests. -/
theorem step_cases {s t : State} (h : step s = .next t) :
    (∃ c rest, s.pending = .issue c :: rest ∧ t = hostCommand c s.dropMove) ∨
      (s.status = .running ∧ s.pending.head?.all (· = .silent) = true ∧ dispatcherStep s.dropMove = .next t) ∨
      (s.status ≠ .running ∧ s.pending.head? = some .silent ∧ t = s.dropMove) := by
  unfold step machineStep at h
  split at h
  · rename_i c rest hp
    exact .inl ⟨c, rest, hp, by simpa using h.symm⟩
  · rename_i hp
    right
    have hs : s.pending.head?.all (· = .silent) = true := by
      rcases hq : s.pending with _ | ⟨m, l⟩
      · rfl
      · cases m with
        | silent => simp
        | issue c => exact absurd hq (hp c l)
    have hne : s.pending ≠ [] → s.pending.head? = some .silent := by
      intro hn
      rcases hq : s.pending with _ | ⟨m, l⟩
      · exact absurd hq hn
      · rw [hq] at hs; simpa using hs
    unfold silentStep at h
    split at h
    · rename_i hr; exact .inl ⟨hr, hs, h⟩
    · rename_i hr
      right
      split at h
      · cases h
      · rename_i hn
        exact ⟨by rw [hr]; decide, hne hn, by simpa using h.symm⟩
    · rename_i hr
      right
      split at h
      · cases h
      · rename_i hn
        exact ⟨by rw [hr]; decide, hne hn, by simpa using h.symm⟩

end Sys2Proof.Machine
end

