-- ==== Sys2Proof/Tests/Slice0.lean ====
section
/-! SUPPORT. The model's own tests. Expected values are from spec/95_test_vectors.md (the table or program named) or
worked by hand from the rule named; the `witness_` theorems show that the hypotheses of the statements can be met. -/

namespace Sys2Proof.Tests

open Sys2Proof.Machine

-- The tests are kernel evaluations: one at a time keeps the number of threads small.
set_option Elab.async false

/-! ### Helpers -/

/-- The identity-swizzled direct source operand. -/
def src (r : Region) (n : BitVec 8) : SrcOperand := ⟨r, n, 0, 1, 2, 3, false, false⟩

/-- An Input operand. -/
def inp (n : BitVec 8) : SrcOperand := src .input n

/-- `Parameter[AR+n]`. -/
def relParam (n : BitVec 8) : SrcOperand := { src .parameter n with rel := true }

/-- `Output[n]`, all components. -/
def out (n : BitVec 8) : DstOperand := ⟨.output, n, 15⟩

/-- `Temporary[n]`, all components. -/
def tmp (n : BitVec 8) : DstOperand := ⟨.temporary, n, 15⟩

/-- The reset state with its first Input registers set. -/
def withInputs (l : List Vec4) : State := { State.reset with input := l ++ List.replicate (16 - l.length) Vec4.zero }

/-- The reset state with a program placed and STATUS = RUNNING. -/
def running (ws : List IWord) : State :=
  { State.reset with imem := Memory.writeFrom [] 0 ws, progLen := ws.length, status := .running }

/-- The reset state under the other policy, with a program placed and STATUS = RUNNING. -/
def runningNop (ws : List IWord) : State :=
  { running ws with cfg := { Config.default with malformedPolicy := .nop } }

/-- The reset state with one host command coming. -/
def commanded (c : HostCommand) : State := { State.reset with pending := [.issue c] }

/-- The state of an answer, the reset state where there is none. -/
def after (o : Host.Outcome State Fault Refusal) : State :=
  match o with
  | .next s => s
  | _ => State.reset

/-- An answer is a next state. -/
def goesOn (o : Host.Outcome State Fault Refusal) : Bool :=
  match o with
  | .next _ => true
  | _ => false

/-- `Output[0]` after an instruction. -/
def out0 (i : Instr) (s : State) : Vec4 := (after (exec i s)).readReg .output 0

/-- `k` steps. -/
def steps (k : Nat) (s : State) : State := after (Host.Core.run Sys2Proof.core k s)

theorem hostSilent_of_nil {s : State} (h : s.pending = []) : s.hostSilent := by
  intro c; rw [h]; simp

theorem hostQuiet_of_nil {s : State} (h : s.pending = []) : s.hostQuiet := by
  intro c; rw [h]; simp

/-! ### WellFormed refuses -/

theorem test_wf_refuses_input_destination : (Instr.mov ⟨.input, 0, 15⟩ (inp 0)).wf Config.default = false := by decide
theorem test_wf_refuses_parameter_destination :
    (Instr.mov ⟨.parameter, 0, 15⟩ (inp 0)).wf Config.default = false := by decide
theorem test_wf_refuses_output_index : (Instr.mov (out 15) (inp 0)).wf Config.default = false := by decide
theorem test_wf_refuses_temporary_index : (Instr.mov (tmp 12) (inp 0)).wf Config.default = false := by decide
theorem test_wf_refuses_output_source : (Instr.mov (tmp 0) (src .output 0)).wf Config.default = false := by decide
theorem test_wf_refuses_relative_input :
    (Instr.mov (tmp 0) { inp 0 with rel := true }).wf Config.default = false := by decide
theorem test_wf_refuses_source_index : (Instr.mov (tmp 0) (inp 16)).wf Config.default = false := by decide
theorem test_wf_refuses_third_source :
    (Instr.mad (tmp 0) (inp 0) (inp 0) (src .parameter 96)).wf Config.default = false := by decide
theorem test_wf_accepts_highest_indices :
    (Instr.mad (out 14) (inp 15) (src .temporary 11) (relParam 255)).wf Config.default = true := by decide
theorem test_wf_refuses_no_output : { Config.default with numOut := 0 }.wf = false := by decide
theorem test_wf_refuses_many_temporaries : { Config.default with numTmp := 257 }.wf = false := by decide
theorem test_wf_refuses_few_parameters : { Config.default with numParam := 3 }.wf = false := by decide
theorem test_wf_refuses_empty_store : { Config.default with imemSize := 0 }.wf = false := by decide
theorem test_wf_refuses_narrow_ar : { Config.default with arWidth := 15 }.wf = false := by decide
theorem test_wf_refuses_wide_literal : { Config.default with rccMax := 0x100000000 }.wf = false := by decide
theorem test_wf_accepts_defaults : Config.default32.wf = true ∧ Config.default64.wf = true := by decide

/-! ### Decoding: one word for each instruction, `S2 S1 S0 W0` -/

/-- B6. -/
theorem test_decode_end : decode 0 = .instr .endProg := by decide
/-- B6: `MOV Output[0].xw, -Temporary[1].wzyx`. -/
theorem test_decode_mov : decode 0x00000000_00000000_00046E01_00250001 =
    .instr (.mov ⟨.output, 0, 9⟩ ⟨.temporary, 1, 3, 2, 1, 0, true, false⟩) := by decide
/-- P7: `LIT Output[0], Input[3]`. -/
theorem test_decode_lit : decode 0x00000000_00000000_00039003_003D0002 = .instr (.lit (out 0) (inp 3)) := by decide
/-- P3: `RCP Output[3].x, Temporary[1].x`. -/
theorem test_decode_rcp : decode 0x00000000_00000000_00000201_00050303 =
    .instr (.rcp ⟨.output, 3, 1⟩ ⟨.temporary, 1, 0, 0, 0, 0, false, false⟩) := by decide
/-- P4: `RSQ Temporary[0].w, Temporary[0].w`. -/
theorem test_decode_rsq : decode 0x00000000_00000000_0003FE00_00220004 =
    .instr (.rsq ⟨.temporary, 0, 8⟩ ⟨.temporary, 0, 3, 3, 3, 3, false, false⟩) := by decide
/-- By hand from R41, R42: `EXP Output[2].w, -Temporary[3].y`. -/
theorem test_decode_exp : decode 0x00000000_00000000_00055603_00210205 =
    .instr (.exp ⟨.output, 2, 8⟩ ⟨.temporary, 3, 1, 1, 1, 1, true, false⟩) := by decide
/-- By hand: `LOG Temporary[11].y, Parameter[AR+7].z`. -/
theorem test_decode_log : decode 0x00000000_00000000_000AAB07_000A0B06 =
    .instr (.log ⟨.temporary, 11, 2⟩ ⟨.parameter, 7, 2, 2, 2, 2, false, true⟩) := by decide
/-- P4: `MUL Output[0].xyz, Input[2], Temporary[0].w`. -/
theorem test_decode_mul : decode 0x00000000_0003FE00_00039002_001D0007 =
    .instr (.mul ⟨.output, 0, 7⟩ (inp 2) ⟨.temporary, 0, 3, 3, 3, 3, false, false⟩) := by decide
/-- B6: `ADD Output[1].xy, Temporary[0], -Parameter[AR+2].wzyx`. -/
theorem test_decode_add : decode 0x00000000_000C6F02_00039200_000D0108 =
    .instr (.add ⟨.output, 1, 3⟩ (src .temporary 0) ⟨.parameter, 2, 3, 2, 1, 0, true, true⟩) := by decide
/-- P4: `DP3 Temporary[0].w, Input[2], Input[2]`. -/
theorem test_decode_dp3 : decode 0x00000000_00039002_00039002_00220009 =
    .instr (.dp3 ⟨.temporary, 0, 8⟩ (inp 2) (inp 2)) := by decide
/-- P2: `DP4 Output[0].y, Parameter[1], Input[0]`. -/
theorem test_decode_dp4 : decode 0x00000000_00039000_00039301_0009000A =
    .instr (.dp4 ⟨.output, 0, 2⟩ (src .parameter 1) (inp 0)) := by decide
/-- By hand: `DST Output[0], Input[1], Input[2]`. -/
theorem test_decode_dst : decode 0x00000000_00039002_00039001_003D000B =
    .instr (.dst (out 0) (inp 1) (inp 2)) := by decide
/-- By hand: `MIN Temporary[5].xz, Input[2], -Input[3]`. -/
theorem test_decode_min : decode 0x00000000_00079003_00039002_0016050C =
    .instr (.min ⟨.temporary, 5, 5⟩ (inp 2) { inp 3 with neg := true }) := by decide
/-- By hand: `MAX Temporary[5].xz, -Input[3], Input[2]`. -/
theorem test_decode_max : decode 0x00000000_00039002_00079003_0016050D =
    .instr (.max ⟨.temporary, 5, 5⟩ { inp 3 with neg := true } (inp 2)) := by decide
/-- By hand: `SLT Output[14], Temporary[11], Parameter[95]`. -/
theorem test_decode_slt : decode 0x00000000_0003935F_0003920B_003D0E0E =
    .instr (.slt (out 14) (src .temporary 11) (src .parameter 95)) := by decide
/-- By hand: `SGE Output[14], Parameter[95], Temporary[11]`. -/
theorem test_decode_sge : decode 0x00000000_0003920B_0003935F_003D0E0F =
    .instr (.sge (out 14) (src .parameter 95) (src .temporary 11)) := by decide
/-- B6: `MAD Output[0], Input[0], Parameter[0], Parameter[1]`. -/
theorem test_decode_mad : decode 0x00039301_00039300_00039000_003D0010 =
    .instr (.mad (out 0) (inp 0) (src .parameter 0) (src .parameter 1)) := by decide
/-- P3: `ARL AR, Input[1].z`. -/
theorem test_decode_arl : decode 0x00000000_00000000_0002A801_00000011 =
    .instr (.arl ⟨.input, 1, 2, 2, 2, 2, false, false⟩) := by decide
/-- P2: `DPH Output[1].x, Input[0], Parameter[0]`. -/
theorem test_decode_dph : decode 0x00000000_00039300_00039000_00050112 =
    .instr (.dph ⟨.output, 1, 1⟩ (inp 0) (src .parameter 0)) := by decide
/-- By hand: `RCC Output[1].x, Input[0].w`. -/
theorem test_decode_rcc : decode 0x00000000_00000000_0003FC00_00050113 =
    .instr (.rcc ⟨.output, 1, 1⟩ ⟨.input, 0, 3, 3, 3, 3, false, false⟩) := by decide
/-- By hand: `SUB Temporary[0], Temporary[1], Temporary[2].wzyx`. -/
theorem test_decode_sub : decode 0x00000000_00006E02_00039201_003E0014 =
    .instr (.sub (tmp 0) (src .temporary 1) ⟨.temporary, 2, 3, 2, 1, 0, false, false⟩) := by decide
/-- By hand: `ABS Output[0], -Input[0]`. -/
theorem test_decode_abs : decode 0x00000000_00000000_00079000_003D0015 =
    .instr (.abs (out 0) { inp 0 with neg := true }) := by decide

/-- B6, in the order of its rows: unknown opcodes, then causes 2 to 7. -/
theorem test_causes :
    [0x16, 0xFFFFFFFFFFFFFFFFFFFFFFFFFFFFFFFF, 0x000000000000000100039000003E0001,
      0x000000000000000000139000003E0001, 0x000000000000000000039000003E0021, 0x000000000000000000039000007E0001,
      0x00000000000000000000000000000100, 0x80000000000000000000000000000000, 0x000000000000000000000000003C0011,
      0x000000000000000000039100003CC801, 0x000000000003920000039200003E0C08, 0x000000000000000000039000003D0F01,
      0x000000000000000000039100003E0001, 0x0000000000000000000B9100003E0001, 0x0000000000000000000B9000003E0001,
      0x000000000000000000039360003E0001, 0x000000000000000000039010003E0001, 0x000000000003920C00039000003E0008,
      0x000000000003910000039360003E0008].map (fun w => causeCode (wordCause Config.default w)) =
      [1, 1, 2, 2, 2, 2, 2, 2, 2, 3, 4, 4, 5, 5, 6, 7, 7, 7, 7] := by decide

/-- B6: the legal rows have no cause. -/
theorem test_no_cause :
    [0x000393010003930000039000003D0010, 0x00000000000C6F0200039200000D0108, 0x000000000000000000046E0100250001,
      0x00000000000000000003900F003D0E01, 0x0000000000000000000B93C8003E0001, 0x00000000000000000003900000020001, 0x11,
      0x00000000000000000008030000000011, 0].all (fun w => wordCause Config.default w = .none) = true := by decide

/-! ### Operand fetch and write-back (B5) -/

/-- The state of B5. -/
def b5 : State :=
  { withInputs [⟨0x3F800000, 0x40000000, 0x40400000, 0x40800000⟩] with
    parameter := State.reset.parameter.set 5 ⟨0x42480000, 0x424C0000, 0x42500000, 0x42540000⟩
    ar := 3 }

theorem test_fetch_swizzle_negate : fetchVector4 b5 ⟨.input, 0, 3, 2, 1, 0, true, false⟩ =
    ⟨0xC0800000, 0xC0400000, 0xC0000000, 0xBF800000⟩ := by decide
theorem test_fetch_relative : fetchVector4 b5 (relParam 2) = ⟨0x42480000, 0x424C0000, 0x42500000, 0x42540000⟩ := by
  decide
theorem test_fetch_relative_above : fetchVector4 b5 { relParam 93 with neg := true } =
    ⟨0x80000000, 0x80000000, 0x80000000, 0x80000000⟩ := by decide
theorem test_fetch_relative_below : fetchVector4 { b5 with ar := -1 } (relParam 0) = Vec4.zero := by decide
theorem test_fetch_relative_no_wrap : fetchVector4 { b5 with ar := 2147483647 } (relParam 255) = Vec4.zero := by decide
theorem test_mask :
    [15, 1, 9, 6, 0].map (fun m => maskMerge m ⟨9, 9, 9, 9⟩ ⟨1, 2, 3, 4⟩) =
      [⟨1, 2, 3, 4⟩, ⟨1, 9, 9, 9⟩, ⟨1, 9, 9, 4⟩, ⟨9, 2, 3, 9⟩, ⟨9, 9, 9, 9⟩] := by decide

/-! ### Instructions (B1 to B4) -/

theorem test_mov : out0 (.mov ⟨.output, 0, 9⟩ { inp 0 with swz0 := 3, swz1 := 2, swz2 := 1, swz3 := 0, neg := true })
    (withInputs [⟨0x3F800000, 0x40000000, 0x40400000, 0x40800000⟩]) = ⟨0xC0800000, 0, 0, 0xBF800000⟩ := by decide +kernel
/-- R217: the source is read whole before the write. -/
theorem test_mov_swaps :
    let s := { State.reset with temporary := State.reset.temporary.set 0 ⟨1, 2, 3, 4⟩ }
    (after (exec (.mov ⟨.temporary, 0, 3⟩ ⟨.temporary, 0, 1, 0, 2, 3, false, false⟩) s)).readReg .temporary 0 =
      ⟨2, 1, 3, 4⟩ := by decide +kernel
theorem test_abs : out0 (.abs (out 0) (inp 0)) (withInputs [⟨0xBFC00000, 0, 0x80000000, 0xFF800000⟩]) =
    ⟨0x3FC00000, 0, 0, 0x7F800000⟩ := by decide +kernel
theorem test_add : out0 (.add (out 0) (inp 0) (inp 1))
    (withInputs [⟨0x4B800000, 0x80000000, 0x3DCCCCCD, 1⟩, ⟨0x3F800000, 0, 0x3E4CCCCD, 1⟩]) =
    ⟨0x4B800000, 0, 0x3E99999A, 2⟩ := by decide +kernel
theorem test_add_overflows : (out0 (.add ⟨.output, 0, 8⟩ (inp 0) (inp 1))
    (withInputs [⟨0, 0, 0, 0x7F7FFFFF⟩, ⟨0, 0, 0, 0x7F7FFFFF⟩])).w = 0x7F800000 := by decide +kernel
theorem test_sub : out0 (.sub (out 0) (inp 0) (inp 1))
    (withInputs [⟨0x3F800000, 0x40000000, 0x80000000, 0x80000000⟩, ⟨0x3F800000, 0x3F000000, 0, 0x80000000⟩]) =
    ⟨0, 0x3FC00000, 0x80000000, 0⟩ := by decide +kernel
theorem test_mul : out0 (.mul (out 0) (inp 0) (inp 1))
    (withInputs [⟨0x7F7FFFFF, 0x00800000, 1, 0x3F800001⟩, ⟨0x7F7FFFFF, 0x3F000000, 0x3F000000, 0x3F800001⟩]) =
    ⟨0x7F800000, 0x00400000, 0, 0x3F800002⟩ := by decide +kernel
theorem test_mul_sign : (out0 (.mul (out 0) (inp 0) (inp 1))
    (withInputs [⟨0xC0000000, 0, 0, 0⟩, ⟨0, 0, 0, 0⟩])).x = 0x80000000 := by decide +kernel
/-- B1: two roundings, not a fused one. -/
theorem test_mad_is_not_fused : out0 (.mad (out 0) (inp 0) (inp 1) (inp 2))
    (withInputs [⟨0x3F800800, 0, 0x80000000, 0x40400000⟩, ⟨0x3F800800, 0x3F800000, 0x3F800000, 0x3DCCCCCD⟩,
      ⟨0xBF801000, 0x80000000, 0x80000000, 0x3F800000⟩]) = ⟨0, 0, 0x80000000, 0x3FA66666⟩ := by decide +kernel
theorem test_min : out0 (.min (out 0) (inp 0) (inp 1))
    (withInputs [⟨0x3F800000, 0, 0x7FC00000, 0xFF800000⟩, ⟨0x40400000, 0x80000000, 0x40E00000, 0x40A00000⟩]) =
    ⟨0x3F800000, 0x80000000, 0x40E00000, 0xFF800000⟩ := by decide +kernel
theorem test_max : out0 (.max (out 0) (inp 0) (inp 1))
    (withInputs [⟨0x3F800000, 0x80000000, 0x40E00000, 0x40A00000⟩, ⟨0x40400000, 0, 0x7FC00000, 0x40800000⟩]) =
    ⟨0x40400000, 0, 0x7FC00000, 0x40A00000⟩ := by decide +kernel
theorem test_slt : out0 (.slt (out 0) (inp 0) (inp 1))
    (withInputs [⟨0x80000000, 0xFF800000, 0x7F800000, 0x40A00000⟩, ⟨0, 0, 0x7F800000, 0x7FC00000⟩]) =
    ⟨0, 0x3F800000, 0, 0⟩ := by decide +kernel
theorem test_sge : out0 (.sge (out 0) (inp 0) (inp 1))
    (withInputs [⟨0x80000000, 0xFF800000, 0x7F800000, 0x40A00000⟩, ⟨0, 0, 0x7F800000, 0x7FC00000⟩]) =
    ⟨0x3F800000, 0, 0x3F800000, 0⟩ := by decide +kernel
theorem test_dp3 : out0 (.dp3 (out 0) (inp 0) (inp 1))
    (withInputs [⟨0x3F800000, 0x40000000, 0x40400000, 0x7FC00000⟩, ⟨0x40800000, 0xC0A00000, 0x40C00000, 0x7F800000⟩]) =
    Vec4.splat 0x41400000 := by decide +kernel
theorem test_dp4 : out0 (.dp4 (out 0) (inp 0) (inp 1))
    (withInputs [⟨0x3F800000, 0x40000000, 0x40400000, 0x40800000⟩, ⟨0x40A00000, 0x40C00000, 0x40E00000, 0x41000000⟩]) =
    Vec4.splat 0x428C0000 := by decide +kernel
/-- B2: the sum is rounded from left to right. -/
theorem test_dp4_order : out0 (.dp4 (out 0) (inp 0) (inp 1))
    (withInputs [⟨0x4E800000, 0x3F800000, 0xCE800000, 0⟩, ⟨0x3F800000, 0x30800000, 0x3F800000, 0⟩]) =
    Vec4.zero := by decide +kernel
theorem test_dph : out0 (.dph (out 0) (inp 0) (inp 1))
    (withInputs [⟨0x3F800000, 0x40000000, 0x40400000, 0x7FC00000⟩, ⟨0x40800000, 0x40A00000, 0x40C00000, 0x40E00000⟩]) =
    Vec4.splat 0x421C0000 := by decide +kernel
theorem test_dst : out0 (.dst (out 0) (inp 0) (inp 1))
    (withInputs [⟨0x7FC00000, 0x40800000, 0x80000000, 0x7FC00000⟩, ⟨0x7FC00000, 0x3F000000, 0x7FC00000, 0x80000000⟩]) =
    ⟨0x3F800000, 0x40000000, 0x80000000, 0x80000000⟩ := by decide +kernel
/-- B3.1. -/
theorem test_rcp : [0x3F800000, 0, 0x80000000, 0x7F800000, 0x40400000, 1, 0x7F7FFFFF, 0x00400000].map
      (fun a => out0 (.rcp (out 0) (inp 0)) (withInputs [Vec4.splat a])) =
    [0x3F800000, 0x7F800000, 0xFF800000, 0, 0x3EAAAAAB, 0x7F800000, 0x00200000, 0x7F000000].map Vec4.splat := by
  decide +kernel
/-- B3.2. -/
theorem test_rcc : [0x3F800000, 0, 0x80000000, 0xFF800000, 0x71800000, 0x5F800000, 0x1F800000, 0x60000000, 1].map
      (fun a => (out0 (.rcc (out 0) (inp 0)) (withInputs [Vec4.splat a])).y) =
    [0x3F800000, 0x5F82C2DC, 0xDF82C2DC, 0x9F7FFFFD, 0x1F7FFFFD, 0x1F800000, 0x5F800000, 0x1F7FFFFD, 0x5F82C2DC] := by
  decide +kernel
/-- R142, and 25 of P4. -/
theorem test_rsq : [0xC1800000, 0, 0xFF800000, 0x41C80000].map
      (fun a => (out0 (.rsq (out 0) (inp 0)) (withInputs [Vec4.splat a])).z) =
    [0x3E800000, 0x7F800000, 0, 0x3E4CCCCD] := by decide +kernel
/-- R143: 3, minus infinity. -/
theorem test_exp : [0x40400000, 0xFF800000].map (fun a => out0 (.exp (out 0) (inp 0)) (withInputs [Vec4.splat a])) =
    [⟨0x41000000, 0, 0x41000000, 0x3F800000⟩, ⟨0, 0, 0, 0x3F800000⟩] := by decide +kernel
/-- R143: 2.5 and -1.25, without the inexact component. -/
theorem test_exp_fraction :
    [0x40200000, 0xBFA00000].map (fun a => out0 (.exp ⟨.output, 0, 11⟩ (inp 0)) (withInputs [Vec4.splat a])) =
    [⟨0x40800000, 0x3F000000, 0, 0x3F800000⟩, ⟨0x3E800000, 0x3F400000, 0, 0x3F800000⟩] := by decide +kernel
/-- R145: 8, minus zero, infinity, the smallest subnormal. -/
theorem test_log : [0x41000000, 0x80000000, 0x7F800000, 1].map
      (fun a => out0 (.log (out 0) (inp 0)) (withInputs [Vec4.splat a])) =
    [⟨0x40400000, 0x3F800000, 0x40400000, 0x3F800000⟩, ⟨0xFF800000, 0x3F800000, 0xFF800000, 0x3F800000⟩,
      ⟨0x7F800000, 0x3F800000, 0x7F800000, 0x3F800000⟩, ⟨0xC3150000, 0x3F800000, 0xC3150000, 0x3F800000⟩] := by
  decide +kernel
/-- R145: -10, without the inexact component. -/
theorem test_log_mantissa : out0 (.log ⟨.output, 0, 11⟩ (inp 0)) (withInputs [Vec4.splat 0xC1200000]) =
    ⟨0x40400000, 0x3FA00000, 0, 0x3F800000⟩ := by decide +kernel
/-- P7, but for its NaN row. -/
theorem test_lit : [⟨0x3F000000, 0x40800000, 0x429A0000, 0x40000000⟩, ⟨0xBF800000, 0x40800000, 0, 0x40000000⟩,
      ⟨0x40000000, 0x3F000000, 0, 0xC0400000⟩].map (fun t => out0 (.lit (out 0) (inp 0)) (withInputs [t])) =
    [⟨0x3F800000, 0x3F000000, 0x41800000, 0x3F800000⟩, ⟨0x3F800000, 0, 0, 0x3F800000⟩,
      ⟨0x3F800000, 0x40000000, 0x41000000, 0x3F800000⟩] := by decide +kernel
/-- B3: the exponent is clamped to just above -128, and the power saturates low. -/
theorem test_lit_clamps : out0 (.lit (out 0) (inp 0)) (withInputs [⟨0x3F800000, 0x40000000, 0, 0xC3480000⟩]) =
    ⟨0x3F800000, 0x3F800000, 0, 0x3F800000⟩ := by decide +kernel
/-- B4. -/
theorem test_arl : [0x4039999A, 0xC0066666, 0xC0E00000, 0x80000000, 0xBF000000, 0x3F7FBE77, 0x4EFFFFFF, 0xCF000000].map
      (fun a => (after (exec (.arl (inp 0)) (withInputs [Vec4.splat a]))).ar) =
    [2, -3, -7, 0, -1, 0, 2147483520, -2147483648] := by decide +kernel
/-- R61: the operand of ARL itself uses the old `AR`. -/
theorem test_arl_uses_old_ar : (after (exec (.arl (relParam 2)) b5)).ar = 50 := by decide +kernel
theorem test_end : (after (exec .endProg { running [0] with ip := 7 })).status = .halted ∧
    (after (exec .endProg { running [0] with ip := 7 })).ip = 7 := by decide

/-- R100: the literals, by conversion of their decimal text. -/
theorem test_literals :
    [Flen.f32, .f64].map (fun fl => [fconst fl 1 100000, fconst fl 18844670000000000000 1,
      fconst fl 542101 10000000000000000000000000]) =
    [Config.default32, Config.default64].map fun c => [c.litEps, c.rccMax, c.rccMin] := by decide +kernel
theorem test_lit_w_max : litWMax Config.default32 0 = 0x42FFFFFF ∧ litWMax Config.default64 0 = 0x405FFFFFD60E94EE := by
  decide +kernel

/-! ### Steps, faults and host commands -/

/-- P6 (a): an unknown opcode faults under both policies; its sub-words are not examined. -/
theorem test_unknown_opcode_faults :
    let s := steps 2 (running [0x00000000_00000000_00039000_003E0001, 0x00000000_00000000_DEADBEEF_00000016])
    s.status = .faulted ∧ s.ip = 1 ∧ s.faultIp = 1 ∧ s.faultCause = .unknownOpcode := by decide +kernel
theorem test_unknown_opcode_faults_under_nop : (after (step (runningNop [0x1F]))).status = .faulted := by decide +kernel
/-- R196: a malformed END does not halt under `nop`; it is skipped. -/
theorem test_malformed_end_is_skipped : (after (step (runningNop [0x100]))).ip = 1 ∧
    (after (step (runningNop [0x100]))).status = .running := by decide +kernel
/-- P1 without its values: MAD at the last entry, then the end of the list. -/
theorem test_end_of_list : (steps 2 (running [0x00039301_00039300_00039000_003D0010])).status = .halted ∧
    (steps 2 (running [0x00039301_00039300_00039000_003D0010])).ip = 1 := by decide +kernel
/-- The reset state with the commands of P1 coming. -/
def p1 : State :=
  { State.reset with
    pending := [.issue (.loadProgram [0x00039301_00039300_00039000_003D0010]),
      .issue (.writeParam 0 (Vec4.splat 0x40000000)), .issue (.writeParam 1 Vec4.zero),
      .issue (.init (Vector.ofFn fun i => if i = 0 then ⟨0x3F800000, 0, 0, 0x3F800000⟩ else Vec4.zero)),
      .issue .run] }

/-- P1, the source's end-to-end example (A10): the run is over and passes with the expected Output registers. -/
theorem test_p1_passes : (steps 7 p1).status = .halted ∧
    (steps 7 p1).outputHolds (⟨0x40000000, 0, 0, 0x40000000⟩ :: List.replicate 14 ⟨0, 0, 0, 0x3F800000⟩) = true ∧
    (steps 7 p1).outputHolds (List.replicate 15 ⟨0, 0, 0, 0x3F800000⟩) = false := by decide +kernel
/-- P6 (c): the run fails to complete, and says why and where. -/
theorem test_p6_fails : (steps 1 (running [0x00000000_00000000_00039200_003C0001])).failed ∧
    (steps 1 (running [0x00000000_00000000_00039200_003C0001])).faultCause = .destRegion := by
  unfold State.failed; decide +kernel
/-- R223 with R82: any NaN stands for an expected NaN, no number does. -/
theorem test_expected_nan : sameFloat .f32 0x7FC00001 0xFFC00000 = true ∧ sameFloat .f32 0x7FC00001 0 = false ∧
    sameFloat .f32 0 0x80000000 = false := by decide
/-- B7: RESET; RUN; READ_STATUS. -/
theorem test_run_of_empty_program :
    (steps 3 { State.reset with pending := [.issue .run, .silent, .issue .readStatus] }).reply = .status 0 0 0 0 0 := by
  decide +kernel
/-- B7: an Output register after INIT. -/
theorem test_init_output :
    (steps 2 { State.reset with pending := [.issue (.init (Vector.replicate 16 Vec4.zero)), .issue (.readOutput 14)] }).reply =
      .output ⟨0, 0, 0, 0x3F800000⟩ := by decide +kernel
/-- B7: 129 words are refused, a write of Parameter[96] and a block at 93 too. -/
theorem test_refused_commands :
    [HostCommand.loadProgram (List.replicate 129 0), .writeParam 96 Vec4.zero,
      .loadMatrices [⟨93, Vector.replicate 16 1, Vector.replicate 16 1, .identity⟩]].all
      (fun c => after (step (commanded c)) = { State.reset with reply := .refused }) = true := by decide +kernel
/-- B7: the index formulas. -/
theorem test_load_matrices :
    let m : Vector Comp 16 := Vector.ofFn fun i => BitVec.ofNat 64 i.val
    let p (k : TransformKind) (i : Nat) : Vec4 :=
      (after (step (commanded (.loadMatrices [⟨8, m, m, k⟩])))).readReg .parameter (8 + i)
    p .identity 1 = ⟨4, 5, 6, 7⟩ ∧ p .transpose 1 = ⟨1, 5, 9, 13⟩ ∧ p .inverse 3 = ⟨12, 13, 14, 15⟩ ∧
      p .inverseTranspose 3 = ⟨3, 7, 11, 15⟩ ∧ p .none 0 = Vec4.zero := by decide +kernel
theorem test_serialised_word : wordToBytes 0x00039301_00039300_00039000_003D0010 =
    [0x10, 0x00, 0x3D, 0x00, 0x00, 0x90, 0x03, 0x00, 0x00, 0x93, 0x03, 0x00, 0x01, 0x93, 0x03, 0x00] := by decide
theorem test_serialised_component : compToBytes .f32 0x3F800001 = [0x01, 0x00, 0x80, 0x3F] ∧
    (compToBytes .f64 0x3FF0000000000002).length = 8 := by decide

/-! ### Witnesses: the hypotheses of each statement can be met, clause by clause -/

/-- `MOV Output[0], Input[0]`. -/
def movWord : IWord := 0x00000000_00000000_00039000_003D0001
/-- The instruction of `movWord`. -/
def movInstr : Instr := .mov (out 0) (inp 0)

theorem fetches_running (w : IWord) : (running [w]).fetches := ⟨rfl, hostSilent_of_nil rfl, Nat.zero_lt_one⟩
theorem fetches_runningNop (w : IWord) : (runningNop [w]).fetches := ⟨rfl, hostSilent_of_nil rfl, Nat.zero_lt_one⟩

theorem witness_EncodeReadsBackDecode : decode movWord = .instr movInstr := by decide
theorem witness_DecodeMatchesOpcodeTable : decode movWord = .instr movInstr ∧
    (opcodeRows[0] ∈ opcodeRows ∧ (0 : IWord) &&& opcodeRows[0].1 = opcodeRows[0].2) ∧
    (opcodeRows[21] ∈ opcodeRows ∧ (0x00000000_00000000_00079000_003D0015 : IWord) &&& opcodeRows[21].1 = opcodeRows[21].2) := by
  decide
theorem witness_WordBytesAreLittleEndian : 0 < 16 ∧ 15 < 16 := by decide
theorem witness_StepRunsDecodedInstruction :
    (running [movWord]).fetches ∧ decode (fetchWord (running [movWord])) = .instr movInstr :=
  ⟨fetches_running _, by decide⟩
theorem witness_PlacedWordRunsNext : State.reset.imem.wf = true ∧ decode movWord = .instr movInstr := by decide
theorem witness_EndOfListHalts : (running []).status = .running ∧ (running []).hostSilent ∧
    (running []).progLen ≤ (running []).ip := ⟨rfl, hostSilent_of_nil rfl, by decide⟩
theorem witness_EndInstructionHalts : (running [0]).fetches ∧ fetchWord (running [0]) = 0 ∧
    opcodeField 0 = 0 ∧ opcodeField 0x100 = 0 := ⟨fetches_running _, by decide⟩
theorem witness_RunTerminates : (running [movWord]).status = .running ∧ (running [movWord]).hostSilent ∧
    (running [movWord]).hostQuiet ∧ (running []).progLen ≤ (running []).ip :=
  ⟨rfl, hostSilent_of_nil rfl, hostQuiet_of_nil rfl, by decide⟩
/-- A stop in each status, and a silent move in each. -/
theorem witness_StopsOnlyAtRest : step State.reset = .fault .restHalted ∧ State.reset.pending = [] ∧
    step { State.reset with status := .faulted, faultCause := .srcIndex } = .fault (.restFaulted .srcIndex) ∧
    ({ State.reset with pending := [.silent] }.status ≠ .running ∧
      { State.reset with pending := [.silent] }.pending = .silent :: []) ∧
    { State.reset with pending := [.silent], status := .faulted }.status ≠ .running :=
  ⟨rfl, rfl, rfl, ⟨by decide, rfl⟩, by decide⟩
theorem witness_StatusTransitions : ∃ t, step (running [0]) = .next t ∧ t.status = .halted := ⟨_, rfl, rfl⟩
theorem witness_StepKeepsStateWellFormed : (running [movWord]).wf = true ∧ goesOn (step (running [movWord])) = true ∧
    (commanded .run).wf = true ∧ goesOn (step (commanded .run)) = true := by decide +kernel
theorem witness_ResetStateIsWellFormedAndHalted : Config.default64.wf = true := by decide
theorem witness_DispatcherKeepsProtectedStorage : (running [movWord]).cfg.wf = true ∧
    (running [movWord]).registersWf = true ∧ (running [movWord]).status = .running ∧ (running [movWord]).hostSilent ∧
    goesOn (step (running [movWord])) = true :=
  ⟨by decide, by decide +kernel, rfl, hostSilent_of_nil rfl, by decide +kernel⟩
theorem witness_NopPolicyNeverRecordsMalformed : (runningNop [0x100]).cfg.malformedPolicy = .nop ∧
    causeCode (runningNop [0x100]).faultCause ≤ 1 ∧ goesOn (step (runningNop [0x100])) = true ∧
    (runningNop [0x16]).cfg.malformedPolicy = .nop ∧ (after (step (runningNop [0x16]))).faultCause = .unknownOpcode := by
  decide +kernel
/-- One word for each clause, at the boundaries of the index ranges. -/
theorem witness_FaultCausePriority :
    ((running []).status = .running ∧ (running []).progLen ≤ (running []).ip ∧ goesOn (step (running [])) = true) ∧
    21 < opcodeField 0x16 ∧ (opcodeField 0x35 ≤ 21 ∧ decode 0x35 = .malformed .reservedNonzero) ∧
    (∃ i d, decode 0x000000000000000000039100003CC801 = .instr i ∧ i.dst? = some d ∧ d.region = .input) ∧
    (∃ i d, decode 0x000000000000000000039000003D0F01 = .instr i ∧ i.dst? = some d ∧ d.region = .output ∧
      Config.default.regionSize d.region ≤ d.index.toNat) ∧
    (∃ i d, decode 0x000000000003920000039200003E0C08 = .instr i ∧ i.dst? = some d ∧ d.region = .temporary ∧
      Config.default.regionSize d.region ≤ d.index.toNat) :=
  ⟨by decide +kernel, by decide, by decide, ⟨_, _, rfl, rfl, rfl⟩, ⟨_, _, rfl, rfl, rfl, by decide⟩,
    ⟨_, _, rfl, rfl, rfl, by decide⟩⟩
/-- The clauses on sources, with the failing source second. -/
theorem witness_FaultCausePriority_sources :
    let i (o : SrcOperand) : Instr := .add (tmp 11) (inp 15) o
    (∀ o, decode (encode (i o)) = decode (encode (i o)) ∧ (i o).srcs = [inp 15] ++ o :: []) ∧
    (∀ d ∈ (i (inp 0)).dst?, d.wf Config.default = true) ∧ (∀ x ∈ [inp 15], x.wf Config.default = true) ∧
    decode (encode (i (src .output 0))) = .instr (i (src .output 0)) ∧
    decode (encode (i { inp 0 with rel := true })) = .instr (i { inp 0 with rel := true }) ∧
    decode (encode (i (inp 16))) = .instr (i (inp 16)) ∧ Config.default.regionSize .input ≤ 16 :=
  ⟨fun _ => ⟨rfl, rfl⟩, by decide, by decide, by decide, by decide, by decide, by decide⟩
theorem witness_FaultEntryRecordsAndProtects :
    ((runningNop [0x16]).fetches ∧ wordCause (runningNop [0x16]).cfg (fetchWord (runningNop [0x16])) = .unknownOpcode) ∧
    ((running [0x100]).fetches ∧ wordCause (running [0x100]).cfg (fetchWord (running [0x100])) = .reservedNonzero ∧
      (running [0x100]).cfg.malformedPolicy = .fault) :=
  ⟨⟨fetches_runningNop _, by decide⟩, fetches_running _, by decide⟩
/-- Causes 2 and 7 under each policy. -/
theorem witness_MalformedPolicyDecides :
    let w7 : IWord := 0x000000000000000000039360003E0001
    ((running [0x100]).fetches ∧ causeCode (wordCause (running [0x100]).cfg (fetchWord (running [0x100]))) = 2 ∧
      (running [0x100]).cfg.malformedPolicy = .fault) ∧
    ((runningNop [w7]).fetches ∧ causeCode (wordCause (runningNop [w7]).cfg (fetchWord (runningNop [w7]))) = 7 ∧
      (runningNop [w7]).cfg.malformedPolicy = .nop) :=
  ⟨⟨fetches_running _, by decide⟩, fetches_runningNop _, by decide⟩
theorem witness_FaultDependsOnlyOnWord :
    let s := running [0x16]
    let s' := { running [0x16] with ar := 7 }
    s.fetches ∧ s'.fetches ∧ s'.cfg = s.cfg ∧ s'.ip = s.ip ∧ fetchWord s' = fetchWord s ∧ goesOn (step s) = true ∧
      goesOn (step s') = true ∧ (after (step s)).status = .faulted :=
  ⟨fetches_running _, ⟨rfl, hostSilent_of_nil rfl, by decide⟩, rfl, rfl, rfl, by decide +kernel, by decide +kernel,
    by decide +kernel⟩
theorem witness_ResetCommandTakenInEveryState :
    { running [movWord] with pending := [.issue .reset, .silent] }.pending = .issue .reset :: [.silent] := rfl
theorem witness_CommandRefusedWhileRunning :
    { running [movWord] with pending := [.issue .run] }.status = .running ∧ HostCommand.run ≠ .reset := by decide
/-- 128 words fit, 129 do not. -/
theorem witness_LoadProgramStoresWords :
    State.reset.imem.wf = true ∧ (commanded (.loadProgram (List.replicate 128 5))).status ≠ .running ∧
    (List.replicate 128 (5 : IWord)).length ≤ State.reset.cfg.imemSize ∧
    State.reset.cfg.imemSize < (List.replicate 129 (5 : IWord)).length := by decide +kernel
/-- Indices 0 and 95 are in range, -1 and 96 are not. -/
theorem witness_WriteParamWritesOneRegister :
    (commanded (.writeParam 95 ⟨1, 2, 3, 0x7FC00001⟩)).registersWf = true ∧ vecFits .f32 ⟨1, 2, 3, 0x7FC00001⟩ = true ∧
    (commanded (.writeParam 95 ⟨1, 2, 3, 0x7FC00001⟩)).status ≠ .running ∧
    (0 : Int) ≤ 0 ∧ (95 : Int) < Config.default.numParam ∧ (-1 : Int) < 0 ∧ (Config.default.numParam : Int) ≤ 96 := by
  decide +kernel
/-- Every kind, at the lowest and the highest block; registers 4 and 91 lie outside every binding. -/
theorem witness_LoadMatricesAppliesBindingsInOrder :
    let m : Vector Comp 16 := Vector.replicate 16 0x3F800000
    State.reset.registersWf = true ∧ State.reset.status ≠ .running ∧
    ([⟨0, m, m, .identity⟩, ⟨92, m, m, .transpose⟩, ⟨92, m, m, .inverse⟩, ⟨0, m, m, .inverseTranspose⟩,
      ⟨-5, m, m, .none⟩].all fun b => bindingFits Config.default b &&
        (List.range 17).all fun k => compFits .f32 (matrixAt b.m k) && compFits .f32 (matrixAt b.minv k)) = true ∧
    [4, 91].all (fun k => [(0 : Int), 92, 92, 0].all fun b => decide (k < b.toNat ∨ b.toNat + 4 ≤ k)) = true := by
  decide +kernel
theorem witness_LoadMatricesRefusedWhole :
    let m : Vector Comp 16 := Vector.replicate 16 0x3F800000
    (commanded (.loadMatrices [⟨93, m, m, .inverse⟩])).status ≠ .running ∧
    bindingFits Config.default ⟨93, m, m, .inverse⟩ = false ∧ bindingFits Config.default ⟨-1, m, m, .identity⟩ = false := by
  decide +kernel
theorem witness_InitSetsVertexState :
    (commanded (.init (Vector.replicate 16 ⟨0x7FC00001, 1, 2, 3⟩))).status ≠ .running ∧
    ∀ i : Fin 16, vecFits .f32 (Vector.replicate 16 (⟨0x7FC00001, 1, 2, 3⟩ : Vec4))[i] = true := by decide +kernel
theorem witness_RunStartsAtZero : (commanded .run).status ≠ .running ∧
    { commanded .run with status := .faulted, faultCause := .destRegion }.status ≠ .running := by decide
/-- Indices 0 and 14 are in range, -1 and 15 are not. -/
theorem witness_ReadCommandsReturnState : (commanded (.readOutput 14)).status ≠ .running ∧
    (commanded .readStatus).status ≠ .running ∧ (14 : Int) < Config.default.numOut ∧
    (Config.default.numOut : Int) ≤ 15 := by decide
/-- Sums 0 and 95 are in range, -1 and 96 are not. -/
theorem witness_RelativeFetchIsBounded :
    (inp 0).rel = false ∧ (relParam 3).rel = true ∧
    [-3, 92, -4, 93].map (fun ar => ((relParam 3).index.toNat : Int) + { State.reset with ar := ar }.ar) =
      [0, 95, -1, 96] := by decide
theorem witness_StoreWritesOnlyEnabledComponents : State.reset.registersWf = true ∧
    (⟨.output, 14, 0⟩ : DstOperand).wf State.reset.cfg = true ∧
    (⟨.temporary, 11, 5⟩ : DstOperand).wf State.reset.cfg = true := by decide +kernel
theorem witness_MovAbsResults : State.reset.registersWf = true ∧ (Instr.mov (out 14) (inp 15)).wf State.reset.cfg = true ∧
    (Instr.abs (out 14) (inp 15)).wf State.reset.cfg = true := by decide +kernel
theorem witness_AddSubMulResults : State.reset.registersWf = true ∧
    (Instr.add (out 14) (inp 15) (relParam 255)).wf State.reset.cfg = true ∧
    (Instr.sub (out 14) (inp 15) (relParam 255)).wf State.reset.cfg = true ∧
    (Instr.mul (out 14) (inp 15) (relParam 255)).wf State.reset.cfg = true := by decide +kernel
theorem witness_MadRoundsTwice : State.reset.registersWf = true ∧
    (Instr.mad (out 14) (inp 15) (src .temporary 11) (src .parameter 95)).wf State.reset.cfg = true := by decide +kernel
theorem witness_MinMaxResults : State.reset.registersWf = true ∧
    (Instr.min (tmp 11) (inp 15) (inp 0)).wf State.reset.cfg = true ∧
    (Instr.max (tmp 11) (inp 15) (inp 0)).wf State.reset.cfg = true := by decide +kernel
theorem witness_SltSgeResults : State.reset.registersWf = true ∧
    (Instr.slt (out 14) (inp 15) (inp 0)).wf State.reset.cfg = true ∧
    (Instr.sge (out 14) (inp 15) (inp 0)).wf State.reset.cfg = true := by decide +kernel
theorem witness_DotProductResults : State.reset.registersWf = true ∧
    (Instr.dp3 (out 14) (inp 15) (inp 0)).wf State.reset.cfg = true ∧
    (Instr.dp4 (out 14) (inp 15) (inp 0)).wf State.reset.cfg = true ∧
    (Instr.dph (out 14) (inp 15) (inp 0)).wf State.reset.cfg = true := by decide +kernel
theorem witness_DistanceVectorResult : State.reset.registersWf = true ∧
    (Instr.dst (out 14) (inp 15) (inp 0)).wf State.reset.cfg = true := by decide +kernel
theorem witness_ReciprocalResults : State.reset.registersWf = true ∧
    (Instr.rcp (out 14) (inp 15)).wf State.reset.cfg = true ∧
    (Instr.rsq (out 14) (inp 15)).wf State.reset.cfg = true := by decide +kernel
/-- With reciprocals of either sign and a NaN. -/
theorem witness_ClampedReciprocalResult : (withInputs [Vec4.splat 0x40800000]).registersWf = true ∧
    (Instr.rcc (out 14) (inp 0)).wf State.reset.cfg = true ∧
    isNan .f32 (frcp .f32 0x7FC00000 0x7FC00001) = true ∧
    (isNan .f32 (frcp .f32 0x7FC00000 0) = false ∧ signOf .f32 (frcp .f32 0x7FC00000 0) = false) ∧
    (isNan .f32 (frcp .f32 0x7FC00000 0x80000000) = false ∧ signOf .f32 (frcp .f32 0x7FC00000 0x80000000) = true) := by
  decide +kernel
theorem witness_RccStaysWithinBounds :
    [Config.default32, Config.default64].all (fun c => !isNan c.flen 0 && decide (0 < sortKey c.flen c.rccMin) &&
      decide (sortKey c.flen c.rccMin ≤ sortKey c.flen c.rccMax) && isFinite c.flen c.rccMax) = true := by decide +kernel
/-- The legal form, and a NaN, an infinite and a finite scalar. -/
theorem witness_ExpResult : (withInputs [⟨0x40200000, 0x7F800000, 0x7FC00000, 0⟩]).registersWf = true ∧
    (Instr.exp (out 14) (inp 0)).wf State.reset.cfg = true ∧
    (isFinite .f32 0x40200000 = true ∧ isNan .f32 0x40200000 = false) ∧ isInf .f32 0x7F800000 = true ∧
    isNan .f32 0x7FC00000 = true := by decide +kernel
/-- The legal form, and a NaN, a zero, an infinite and a finite nonzero scalar. -/
theorem witness_LogResult : (withInputs [⟨0xC1200000, 0xFF800000, 0x7FC00000, 0x80000000⟩]).registersWf = true ∧
    (Instr.log (out 14) (inp 0)).wf State.reset.cfg = true ∧
    (isFinite .f32 (fabs .f32 0xC1200000) = true ∧ magOf .f32 (fabs .f32 0xC1200000) ≠ 0) ∧
    isInf .f32 (fabs .f32 0xFF800000) = true ∧ isNan .f32 (fabs .f32 0x7FC00000) = true ∧
    magOf .f32 (fabs .f32 0x80000000) = 0 := by decide +kernel
theorem witness_LitResult : State.reset.registersWf = true ∧ (Instr.lit (out 14) (inp 15)).wf State.reset.cfg = true := by
  decide +kernel
/-- The hypotheses of the rows, at the values between which they divide: `t[0]` negative, zero, NaN, positive; `t[1]`
zero, infinite, one, NaN; `t[3]` of either sign, zero, outside the clamp. -/
theorem witness_LitCornerCases :
    isNan .f32 0x7FC00000 = true ∧ (Config.default32.flen = .f32 ∧ Config.default32.litEps = 0x3727C5AC) ∧
    (Config.default64.flen = .f64 ∧ Config.default64.litEps = 0x3EE4F8B588E368F1) ∧
    fgt .f32 0x43000000 (litWMax Config.default32 0x7FC00000) = true ∧
    flt .f32 0xC3000000 (fneg .f32 (litWMax Config.default32 0x7FC00000)) = true ∧ flt .f32 0x80000001 0 = true ∧
    sortKey .f32 0x80000000 = 0 ∧ fgt .f32 1 0 = true ∧ (isNan .f32 0 = false ∧ sortKey .f32 0 ≤ 0) ∧
    flt .f32 0xBF800000 0 = true ∧ (isInf .f32 0x7F800000 = true ∧ signOf .f32 0x7F800000 = false) ∧
    feq .f32 0x3F800000 (fone .f32) = true := by decide +kernel
/-- The products of the three last rows: 128, -127, and `1 * 2`. -/
theorem witness_LitCornerCases_powers :
    let p (w y : Comp) : Comp :=
      fmul .f32 0x7FC00000 (litW Config.default32 0x7FC00000 w) (flog2 .f32 0x7FC00000 (clampLo .f32 y 0))
    p 0x42800000 0x40800000 = 0x43000000 ∧ p 0xC2FE0000 0x40000000 = 0xC2FE0000 ∧ p 0x3F800000 0x40800000 = 0x40000000 := by
  decide +kernel
/-- A legal operand, and the ends of the range of `AR`. -/
theorem witness_ArlLoadsFloor : (Instr.arl (inp 15)).wf State.reset.cfg = true ∧ isFinite .f32 0xCF000000 = true ∧
    isFinite .f32 0x4EFFFFFF = true ∧ inArRange 32 (-2147483648) = true ∧ inArRange 32 2147483520 = true ∧
    inArRange 32 2147483648 = false := by decide +kernel
theorem witness_ArlLoadsFloor_value : valueOf .f32 0x40200000 = 5 / 2 ∧ ((2 : Int) : ℚ) ≤ 5 / 2 ∧ (5 / 2 : ℚ) < (2 : Int) + 1 := by
  refine ⟨?_, by norm_num, by norm_num⟩
  rw [show valueOf .f32 0x40200000 = finValue false 0xA00000 (-22) from rfl]
  norm_num [finValue, signed]
theorem witness_CommutativeInstructions : (inp 15).wf State.reset.cfg = true ∧
    (relParam 255).wf State.reset.cfg = true := by decide
/-- A NaN, opposite and equal infinities, an infinity and a finite, a zero sum and a nonzero one. -/
theorem witness_AddRoundsExactSum : isNan .f32 0x7FC00000 = true ∧
    (isInf .f32 0x7F800000 = true ∧ isInf .f32 0xFF800000 = true ∧ signOf .f32 0x7F800000 ≠ signOf .f32 0xFF800000) ∧
    (isNan .f32 0x7F800000 = false ∧ isFinite .f32 0x3F800000 = true ∧ isFinite .f32 0x80000000 = true) := by
  decide +kernel
theorem witness_AddRoundsExactSum_sums : valueOf .f32 0x80000000 + valueOf .f32 0 = 0 ∧
    valueOf .f32 0x3F800000 + valueOf .f32 0 ≠ 0 := by
  rw [show valueOf .f32 0x80000000 = finValue true 0 (-149) from rfl,
    show valueOf .f32 0 = finValue false 0 (-149) from rfl,
    show valueOf .f32 0x3F800000 = finValue false 0x800000 (-23) from rfl]
  norm_num [finValue, signed]
/-- A NaN, an infinity with a zero and with a nonzero, finite values. -/
theorem witness_MulRoundsExactProduct : isNan .f32 0x7FC00000 = true ∧
    (isInf .f32 0x7F800000 = true ∧ magOf .f32 0x80000000 = 0) ∧
    (isNan .f32 0x3F800000 = false ∧ magOf .f32 0x3F800000 ≠ 0) ∧ isFinite .f32 0x3F800000 = true := by decide +kernel
/-- A NaN, a zero, an infinity, the extreme exact powers of two, a finite nonzero value. -/
theorem witness_ReciprocalIsCorrectlyRounded : isNan .f32 0x7FC00000 = true ∧ magOf .f32 0x80000000 = 0 ∧
    isInf .f32 0xFF800000 = true ∧ pow2Float .f32 (-Flen.f32.emax) = 0x00400000 ∧
    pow2Float .f32 Flen.f32.emax = 0x7F000000 ∧ (isFinite .f32 1 = true ∧ magOf .f32 1 ≠ 0) := by decide +kernel
/-- A NaN, a zero, an infinity, a negative value, a positive finite one. -/
theorem witness_SquareRootIsCorrectlyRounded : isNan .f32 0x7FC00000 = true ∧ magOf .f32 0x80000000 = 0 ∧
    (isInf .f32 0x7F800000 = true ∧ signOf .f32 0x7F800000 = false) ∧
    (isNan .f32 0x80000001 = false ∧ magOf .f32 0x80000001 ≠ 0 ∧ signOf .f32 0x80000001 = true) ∧
    (isFinite .f32 1 = true ∧ magOf .f32 1 ≠ 0 ∧ signOf .f32 1 = false) := by decide +kernel
theorem witness_FloorIsLargestInteger : isNan .f32 0x7FC00000 = true ∧ isInf .f32 0xFF800000 = true ∧
    isFinite .f32 0xBF000000 = true := by decide +kernel
/-- A NaN for `q`; zeros, infinity, negative arguments, an ordered pair. -/
theorem witness_Log2UnitProperties : isNan .f32 0x7FC00000 = true ∧ magOf .f32 0x80000000 = 0 ∧
    (isInf .f32 0x7F800000 = true ∧ signOf .f32 0x7F800000 = false) ∧ flt .f32 0xFF800000 0 = true ∧
    (flt .f32 0 1 = true ∧ fge .f32 0x7F800000 1 = true) ∧ isFinite .f32 0x40400000 = true := by decide +kernel
/-- A power of two, the smallest subnormal, and a value strictly between two powers. -/
theorem witness_Log2UnitProperties_values : valueOf .f32 1 = (2 : ℚ) ^ (-149 : Int) ∧
    (2 : ℚ) ^ (1 : Int) < valueOf .f32 0x40400000 ∧ valueOf .f32 0x40400000 < (2 : ℚ) ^ ((1 : Int) + 1) := by
  rw [show valueOf .f32 1 = finValue false 1 (-149) from rfl,
    show valueOf .f32 0x40400000 = finValue false 0xC00000 (-22) from rfl]
  norm_num [finValue, signed]
/-- A NaN, both infinities, an ordered pair. -/
theorem witness_Exp2UnitProperties : isNan .f32 0x7FC00000 = true ∧ isInf .f32 0xFF800000 = true ∧
    fge .f32 0x3F800000 0xBF800000 = true ∧
    [0x43000000, 0xC2FC0001, 0xC2FC0000, 0x42FE0000, 0x40200000].all (isFinite .f32) = true := by decide +kernel
/-- 128 saturates high, just below -126 low; -126 and 127 are the exact ends; 2.5 lies between 2 and 3. -/
theorem witness_Exp2UnitProperties_values : ((Flen.f32.emax : Int) : ℚ) + 1 ≤ valueOf .f32 0x43000000 ∧
    valueOf .f32 0xC2FC0001 < ((Flen.f32.emin : Int) : ℚ) ∧ valueOf .f32 0xC2FC0000 = ((Flen.f32.emin : Int) : ℚ) ∧
    valueOf .f32 0x42FE0000 = ((Flen.f32.emax : Int) : ℚ) ∧
    (((2 : Int) : ℚ) < valueOf .f32 0x40200000 ∧ valueOf .f32 0x40200000 < ((2 : Int) : ℚ) + 1) := by
  rw [show valueOf .f32 0x43000000 = finValue false 0x800000 (-16) from rfl,
    show valueOf .f32 0xC2FC0001 = finValue true 0xFC0001 (-17) from rfl,
    show valueOf .f32 0xC2FC0000 = finValue true 0xFC0000 (-17) from rfl,
    show valueOf .f32 0x42FE0000 = finValue false 0xFE0000 (-17) from rfl,
    show valueOf .f32 0x40200000 = finValue false 0xA00000 (-22) from rfl]
  norm_num [finValue, signed, Flen.emin, Flen.emax]

end Sys2Proof.Tests
end

section
/-! PROOFS. Operand fetch and write-back (40_execution_model.md R65 to R68). -/

namespace Sys2Proof.Machine

/-! ### Operand fetch -/

/-- The component of the register that component `c` of the fetched operand is read from (R65). -/
def swzOf (o : SrcOperand) (c : CIdx) : CIdx :=
  match c with
  | 0 => o.swz0
  | 1 => o.swz1
  | 2 => o.swz2
  | 3 => o.swz3

@[simp] theorem swizzle_get (o : SrcOperand) (v : Vec4) (c : CIdx) : (swizzle o v).get c = v.get (swzOf o c) := by
  fin_cases c <;> rfl

@[simp] theorem negate_get (fl : Flen) (o : SrcOperand) (v : Vec4) (c : CIdx) :
    (negate fl o v).get c = if o.neg then fneg fl (v.get c) else v.get c := by
  unfold negate
  cases o.neg
  case false => rfl
  case true => fin_cases c <;> rfl

theorem fetchVector4_get (s : State) (o : SrcOperand) (c : CIdx) :
    (fetchVector4 s o).get c =
      if o.neg then fneg s.cfg.flen ((resolve s o).get (swzOf o c)) else (resolve s o).get (swzOf o c) := by
  rw [fetchVector4, negate_get, swizzle_get]

theorem fetchVector1_eq_get_zero (s : State) (o : SrcOperand) : fetchVector1 s o = (fetchVector4 s o).get 0 := rfl

/-- Settles O31: the swizzle and the negation are each known by component. -/
theorem fetchSwizzlesThenNegates : Obligations.FetchSwizzlesThenNegates := by
  intro s o
  refine ⟨fun c => ?_, fetchVector1_eq_get_zero s o⟩
  rw [fetchVector4_get]
  fin_cases c <;> rfl

/-! ### Legal destinations -/

theorem State.region_length {s : State} (h : s.registersWf = true) (r : Region) :
    (s.region r).length = s.cfg.regionSize r := by
  simp only [State.registersWf, Bool.and_eq_true, beq_iff_eq] at h
  obtain ⟨⟨⟨⟨⟨⟨⟨⟨hin, hout⟩, htmp⟩, hpar⟩, _⟩, _⟩, _⟩, _⟩, _⟩ := h
  cases r
  case input => exact hin
  case output => exact hout
  case temporary => exact htmp
  case parameter => exact hpar

theorem dstOperand_wf_iff (c : Config) (d : DstOperand) :
    d.wf c = true ↔ (d.region = .output ∨ d.region = .temporary) ∧ d.index.toNat < c.regionSize d.region := by
  simp [DstOperand.wf]

/-- A legal destination names a register the state has. -/
theorem dst_index_lt_length {s : State} {d : DstOperand} (hs : s.registersWf = true) (hd : d.wf s.cfg = true) :
    d.index.toNat < (s.region d.region).length := by
  rw [State.region_length hs]
  exact ((dstOperand_wf_iff _ _).1 hd).2

/-! ### Write-back -/

@[simp] theorem maskMerge_zero (old new : Vec4) : maskMerge 0 old new = old := by
  ext c
  simp [maskMerge_get]

theorem set_getD_self {α : Type} (l : List α) (i : Nat) (a : α) : l.set i (l.getD i a) = l := by
  by_cases h : i < l.length
  · simp [h]
  · exact List.set_eq_of_length_le (by omega)

/-- Writing back what a register holds changes nothing, also where the region has no such register. -/
@[simp] theorem State.writeReg_readReg_self (s : State) (r : Region) (i : Nat) :
    s.writeReg r i (s.readReg r i) = s := by
  cases r <;> simp only [State.writeReg, State.readReg, State.region, set_getD_self]

theorem storeVector4_mask_zero (s : State) (d : DstOperand) (v : Vec4) (h : d.wmask = 0) : storeVector4 d v s = s := by
  rw [storeVector4, h, maskMerge_zero, State.writeReg_readReg_self]

/-- A write-back to Output or Temporary leaves every other field of the state. -/
theorem storeVector4_frame (s : State) (d : DstOperand) (v : Vec4)
    (h : d.region = .output ∨ d.region = .temporary) :
    storeVector4 d v s =
      { s with output := (storeVector4 d v s).output, temporary := (storeVector4 d v s).temporary } := by
  unfold storeVector4
  rcases h with h | h <;> rw [h] <;> rfl

/-- Settles O32: the components by `storeVector4_readReg`, whose index bound a legal destination meets; the rest by
the zero mask, the frame and the lengths of the regions. -/
theorem storeWritesOnlyEnabledComponents : Obligations.StoreWritesOnlyEnabledComponents := by
  intro s d r hs hd
  obtain ⟨hregion, _⟩ := (dstOperand_wf_iff _ _).1 hd
  exact ⟨fun g i c => storeVector4_readReg s d r g i c (dst_index_lt_length hs hd), storeVector4_mask_zero s d r,
    storeVector4_frame s d r hregion, storeVector4_region_length s d r .output,
    storeVector4_region_length s d r .temporary⟩

end Sys2Proof.Machine
end

section
/-! PROOFS. The sign units FNEG and FABS, bit by bit (41_fp_units.md R83, R84). -/

namespace Sys2Proof

theorem Flen.bits_sub_one_lt (fl : Flen) : fl.bits - 1 < 64 := by cases fl <;> decide

/-! ### Bits -/

theorem getLsbD_signMask (fl : Flen) (i : Nat) : (1#64 <<< (fl.bits - 1)).getLsbD i = decide (i = fl.bits - 1) := by
  have h := fl.bits_sub_one_lt
  simp only [BitVec.getLsbD_shiftLeft, BitVec.getLsbD_one]
  by_cases hi : i = fl.bits - 1
  · simp [hi, h]
  · simp [hi]
    omega

theorem getLsbD_fneg (fl : Flen) (a : Comp) (i : Nat) :
    (fneg fl a).getLsbD i = if i = fl.bits - 1 then !a.getLsbD i else a.getLsbD i := by
  rw [fneg, BitVec.getLsbD_xor, getLsbD_signMask]
  split <;> simp [*]

theorem getLsbD_fabs (fl : Flen) (a : Comp) {i : Nat} (hi : i < 64) :
    (fabs fl a).getLsbD i = if i = fl.bits - 1 then false else a.getLsbD i := by
  rw [fabs, BitVec.getLsbD_and, BitVec.getLsbD_not, getLsbD_signMask]
  split <;> simp [*]

/-! ### Sign and magnitude -/

/-- The magnitude depends only on the bits below the sign bit. -/
theorem magOf_congr {fl : Flen} {x y : Comp} (h : ∀ i < fl.bits - 1, x.getLsbD i = y.getLsbD i) :
    magOf fl x = magOf fl y := by
  apply Nat.eq_of_testBit_eq
  intro i
  simp only [magOf, Nat.testBit_mod_two_pow]
  by_cases hi : i < fl.bits - 1
  · simp only [hi, decide_true, Bool.true_and]
    exact h i hi
  · simp [hi]

@[simp] theorem magOf_fneg (fl : Flen) (a : Comp) : magOf fl (fneg fl a) = magOf fl a :=
  magOf_congr fun i hi => by rw [getLsbD_fneg, if_neg hi.ne]

@[simp] theorem magOf_fabs (fl : Flen) (a : Comp) : magOf fl (fabs fl a) = magOf fl a :=
  magOf_congr fun i hi => by rw [getLsbD_fabs fl a (hi.trans fl.bits_sub_one_lt), if_neg hi.ne]

@[simp] theorem signOf_fneg (fl : Flen) (a : Comp) : signOf fl (fneg fl a) = !signOf fl a := by
  rw [signOf, getLsbD_fneg, if_pos rfl, signOf]

@[simp] theorem signOf_fabs (fl : Flen) (a : Comp) : signOf fl (fabs fl a) = false := by
  rw [signOf, getLsbD_fabs fl a fl.bits_sub_one_lt, if_pos rfl]

@[simp] theorem isNan_fneg (fl : Flen) (a : Comp) : isNan fl (fneg fl a) = isNan fl a := by
  rw [isNan, magOf_fneg, isNan]

@[simp] theorem isNan_fabs (fl : Flen) (a : Comp) : isNan fl (fabs fl a) = isNan fl a := by
  rw [isNan, magOf_fabs, isNan]

theorem signed_not (n : Bool) (m : Nat) : signed (!n) m = -signed n m := by
  cases n <;> simp [signed]

theorem sortKey_fneg (fl : Flen) (a : Comp) : sortKey fl (fneg fl a) = -sortKey fl a := by
  rw [sortKey, signOf_fneg, magOf_fneg, signed_not, sortKey]

theorem sortKey_fabs (fl : Flen) (a : Comp) : sortKey fl (fabs fl a) = magOf fl a := by
  rw [sortKey, signOf_fabs, magOf_fabs]
  rfl

/-- Settles O60: the bits of both units, from which sign and magnitude of the results follow, and from these the NaN
class and the sort key. -/
theorem signUnitsChangeOnlySignBit : Obligations.SignUnitsChangeOnlySignBit := by
  intro fl a
  exact ⟨fun i _ => getLsbD_fneg fl a i, fun _ hi => getLsbD_fabs fl a hi, isNan_fneg fl a, isNan_fabs fl a,
    sortKey_fneg fl a, sortKey_fabs fl a⟩

end Sys2Proof
end

section
/-! PROOFS. What finite components stand for, rounding where nothing is lost, and FFLOOR (41_fp_units.md R80, R81,
R95). -/

namespace Sys2Proof

/-! ### Constants of the formats -/

theorem Flen.infMag_eq_mul (fl : Flen) : (fl.infMag : Int) = (2 * fl.emax + 1) * 2 ^ fl.fracBits := by
  cases fl <;> decide

theorem Flen.infMag_pos (fl : Flen) : 0 < fl.infMag := by cases fl <;> decide

theorem Flen.emax_pos (fl : Flen) : 0 < fl.emax := by cases fl <;> decide

theorem Flen.eulp_nonpos (fl : Flen) : fl.eulp ≤ 0 := by cases fl <;> decide

theorem Flen.fracBits_le_emax (fl : Flen) : (fl.fracBits : Int) ≤ fl.emax := by cases fl <;> decide

/-! ### Values of finite components -/

theorem finValue_eq (n : Bool) (m : Nat) (e : Int) :
    finValue n m e = if n then -((m : ℚ) * 2 ^ e) else (m : ℚ) * 2 ^ e := by
  cases n <;> simp [finValue, signed]

theorem abs_finValue (n : Bool) (m : Nat) (e : Int) : |finValue n m e| = (m : ℚ) * 2 ^ e := by
  have h : (0 : ℚ) ≤ (m : ℚ) * 2 ^ e := by positivity
  rw [finValue_eq]
  cases n <;> simp [abs_of_nonneg h]

theorem signed_natAbs (k : Int) : signed (decide (k < 0)) k.natAbs = k := by
  simp only [signed, decide_eq_true_eq]
  split <;> omega

/-- A finite component is a significand of at most `fracBits` + 1 bits times a power of two not below the smallest
subnormal's. -/
theorem unpack_of_isFinite {fl : Flen} {x : Comp} (h : isFinite fl x = true) :
    ∃ m e, unpack fl x = .fin (signOf fl x) m e ∧ m < 2 ^ (fl.fracBits + 1) ∧ fl.eulp ≤ e ∧
      (m : ℚ) * 2 ^ e = magValue fl (magOf fl x) := by
  have hlt : magOf fl x < fl.infMag := by simpa [isFinite] using h
  have hfrac : magOf fl x % 2 ^ fl.fracBits < 2 ^ fl.fracBits := Nat.mod_lt _ (by positivity)
  simp only [unpack, magValue, if_neg hlt.not_gt, if_neg hlt.ne, pow_succ]
  by_cases hex : magOf fl x / 2 ^ fl.fracBits = 0
  · have hmod : magOf fl x % 2 ^ fl.fracBits = magOf fl x :=
      Nat.mod_eq_of_lt ((Nat.div_eq_zero_iff_lt (by positivity)).1 hex)
    rw [if_pos hex, if_pos hex]
    exact ⟨_, _, rfl, by omega, le_rfl, by rw [hmod]⟩
  · rw [if_neg hex, if_neg hex]
    exact ⟨_, _, rfl, by omega, by omega, rfl⟩

theorem valueOf_of_unpack {fl : Flen} {x : Comp} {n : Bool} {m : Nat} {e : Int} (h : unpack fl x = .fin n m e) :
    valueOf fl x = finValue n m e := by
  rw [valueOf, h]

theorem valueOf_of_isFinite {fl : Flen} {x : Comp} (h : isFinite fl x = true) :
    valueOf fl x = if signOf fl x then -magValue fl (magOf fl x) else magValue fl (magOf fl x) := by
  obtain ⟨m, e, hu, _, _, hval⟩ := unpack_of_isFinite h
  rw [valueOf_of_unpack hu, finValue_eq, hval]

theorem isFinite_ofSignMag {fl : Flen} (n : Bool) {k : Nat} (h : k < fl.infMag) :
    isFinite fl (ofSignMag fl n k) = true := by
  rw [isFinite, magOf_ofSignMag fl n (h.trans fl.infMag_lt)]
  simpa using h

theorem valueOf_ofSignMag {fl : Flen} (n : Bool) {k : Nat} (h : k < fl.infMag) :
    valueOf fl (ofSignMag fl n k) = if n then -magValue fl k else magValue fl k := by
  have hk := h.trans fl.infMag_lt
  rw [valueOf_of_isFinite (isFinite_ofSignMag n h), signOf_ofSignMag fl n hk, magOf_ofSignMag fl n hk]

/-! ### Rounding where nothing is lost (R81) -/

/-- The magnitude bits of a significand `s` with the exponent field `j` steps above the lowest: the leading bit of a
normal `s` carries into the field. -/
theorem magValue_field_add {fl : Flen} {j s : Nat} (hlo : j = 0 ∨ 2 ^ fl.fracBits ≤ s)
    (hhi : s < 2 ^ (fl.fracBits + 1)) :
    magValue fl (j * 2 ^ fl.fracBits + s) = (s : ℚ) * 2 ^ (fl.eulp + j) := by
  have hpos : 0 < 2 ^ fl.fracBits := by positivity
  rw [magValue]
  by_cases hs : s < 2 ^ fl.fracBits
  case pos =>
    obtain rfl : j = 0 := by omega
    simp [Nat.div_eq_of_lt hs]
  case neg =>
    obtain ⟨f, rfl⟩ := Nat.exists_eq_add_of_le (not_lt.1 hs)
    have hf : f < 2 ^ fl.fracBits := by rw [pow_succ] at hhi; omega
    have hsum : j * 2 ^ fl.fracBits + (2 ^ fl.fracBits + f) = f + (j + 1) * 2 ^ fl.fracBits := by ring
    rw [hsum, Nat.add_mul_div_right _ _ hpos, Nat.add_mul_mod_self_right, Nat.div_eq_of_lt hf, Nat.mod_eq_of_lt hf]
    simp

/-- `ulp` of `roundMag`: the weight of the last bit of a result of the size of `m` * 2^`e`. -/
def roundUlp (fl : Flen) (m : Nat) (e : Int) : Int := max ((Nat.log2 m : Int) + e - fl.fracBits) fl.eulp

theorem roundMag_of_ulp_le {fl : Flen} {m : Nat} {e : Int} (sticky : Bool) (hm : m ≠ 0) (h : roundUlp fl m e ≤ e) :
    roundMag fl m e sticky =
      min ((roundUlp fl m e - fl.eulp).toNat * 2 ^ fl.fracBits + m * 2 ^ (e - roundUlp fl m e).toNat) fl.infMag := by
  rw [roundMag, if_neg hm]
  change min (_ + if roundUlp fl m e ≤ e then _ else _) _ = _
  rw [if_pos h]
  rfl

@[simp] theorem roundMag_zero (fl : Flen) (e : Int) (sticky : Bool) : roundMag fl 0 e sticky = 0 := by simp [roundMag]

@[simp] theorem magValue_zero (fl : Flen) : magValue fl 0 = 0 := by simp [magValue]

/-- With the exponent field in range, the bits of `magValue_field_add` are below those of infinity. -/
theorem field_add_lt_infMag {fl : Flen} {j s : Nat} (hj : (j : Int) < 2 * fl.emax) (hs : s < 2 ^ (fl.fracBits + 1)) :
    j * 2 ^ fl.fracBits + s < fl.infMag := by
  have hs' : (s : Int) < 2 * 2 ^ fl.fracBits := by
    rw [pow_succ, mul_comm] at hs
    exact_mod_cast hs
  have hmul : ((j : Int) + 2) * 2 ^ fl.fracBits ≤ fl.infMag := by
    rw [fl.infMag_eq_mul]
    exact mul_le_mul_of_nonneg_right (by omega) (by positivity)
  rw [add_mul] at hmul
  zify
  omega

theorem log2_le_of_lt_two_pow {m p : Nat} (h : m < 2 ^ (p + 1)) : Nat.log2 m ≤ p := by
  by_cases hm : m = 0
  · simp [hm]
  · exact Nat.lt_succ_iff.1 ((Nat.log2_lt hm).2 h)

theorem mul_two_pow_lt {m t p : Nat} (h : Nat.log2 m + t ≤ p) : m * 2 ^ t < 2 ^ (p + 1) :=
  calc m * 2 ^ t < 2 ^ (Nat.log2 m + 1) * 2 ^ t := by gcongr; exact Nat.lt_log2_self
    _ = 2 ^ (Nat.log2 m + t + 1) := by ring
    _ ≤ 2 ^ (p + 1) := by gcongr; norm_num

theorem two_pow_log2_add_le {m : Nat} (hm : m ≠ 0) (t : Nat) : 2 ^ (Nat.log2 m + t) ≤ m * 2 ^ t := by
  rw [pow_add]
  exact Nat.mul_le_mul_right _ (Nat.log2_self_le hm)

/-- A number that fits the format rounds to a finite result of the same value. -/
theorem roundMag_exact {fl : Flen} {m : Nat} {e : Int} (hm : m < 2 ^ (fl.fracBits + 1)) (hlo : fl.eulp ≤ e)
    (hhi : (Nat.log2 m : Int) + e ≤ fl.emax) :
    roundMag fl m e false < fl.infMag ∧ magValue fl (roundMag fl m e false) = (m : ℚ) * 2 ^ e := by
  by_cases hm0 : m = 0
  case pos => simp [hm0, fl.infMag_pos]
  have hulp : roundUlp fl m e = max ((Nat.log2 m : Int) + e - fl.fracBits) fl.eulp := rfl
  have heulp : fl.eulp = 1 - fl.emax - fl.fracBits := rfl
  have hlog : Nat.log2 m ≤ fl.fracBits := log2_le_of_lt_two_pow hm
  have hemax := fl.emax_pos
  rw [roundMag_of_ulp_le false hm0 (by omega)]
  obtain ⟨j, hj⟩ := Int.eq_ofNat_of_zero_le (a := roundUlp fl m e - fl.eulp) (by omega)
  obtain ⟨t, ht⟩ := Int.eq_ofNat_of_zero_le (a := e - roundUlp fl m e) (by omega)
  rw [hj, ht, Int.toNat_natCast, Int.toNat_natCast]
  have hsHi : m * 2 ^ t < 2 ^ (fl.fracBits + 1) := mul_two_pow_lt (by omega)
  have hsLo : j = 0 ∨ 2 ^ fl.fracBits ≤ m * 2 ^ t := by
    refine or_iff_not_imp_left.2 fun hj0 => ?_
    have hnormal : fl.fracBits = Nat.log2 m + t := by omega
    rw [hnormal]
    exact two_pow_log2_add_le hm0 t
  have hlt : j * 2 ^ fl.fracBits + m * 2 ^ t < fl.infMag := field_add_lt_infMag (by omega) hsHi
  rw [min_eq_left hlt.le]
  refine ⟨hlt, ?_⟩
  calc magValue fl (j * 2 ^ fl.fracBits + m * 2 ^ t)
      = ((m * 2 ^ t : Nat) : ℚ) * 2 ^ (fl.eulp + j) := magValue_field_add hsLo hsHi
    _ = (m : ℚ) * (2 ^ (t : Int) * 2 ^ (fl.eulp + j)) := by push_cast; rw [mul_assoc, zpow_natCast]
    _ = (m : ℚ) * 2 ^ e := by rw [← zpow_add₀ two_ne_zero]; congr 2; omega

theorem roundFin_exact {fl : Flen} (n : Bool) {m : Nat} {e : Int} (hm : m < 2 ^ (fl.fracBits + 1)) (hlo : fl.eulp ≤ e)
    (hhi : (Nat.log2 m : Int) + e ≤ fl.emax) :
    isFinite fl (roundFin fl n m e) = true ∧ valueOf fl (roundFin fl n m e) = finValue n m e := by
  obtain ⟨hlt, hval⟩ := roundMag_exact hm hlo hhi
  exact ⟨isFinite_ofSignMag n hlt, by rw [roundFin, valueOf_ofSignMag n hlt, hval, finValue_eq]⟩

/-- An integer of at most `fracBits` + 1 bits is a float. -/
theorem intFloat_exact {fl : Flen} {k : Int} (h : k.natAbs < 2 ^ (fl.fracBits + 1)) :
    isFinite fl (intFloat fl k) = true ∧ valueOf fl (intFloat fl k) = k := by
  have hlog := log2_le_of_lt_two_pow h
  have hemax := fl.fracBits_le_emax
  obtain ⟨hfin, hval⟩ := roundFin_exact (fl := fl) (decide (k < 0)) h fl.eulp_nonpos (by omega)
  refine ⟨hfin, hval.trans ?_⟩
  rw [finValue, signed_natAbs, zpow_zero, mul_one]

theorem intFloat_zero (fl : Flen) : intFloat fl 0 = 0 := by
  simp [intFloat, roundFin, ofSignMag]

/-! ### Floor (R95) -/

theorem finValue_of_nonneg (n : Bool) (m : Nat) {e : Int} (he : 0 ≤ e) :
    finValue n m e = (signed n (m * 2 ^ e.toNat) : ℚ) := by
  obtain ⟨d, rfl⟩ := Int.eq_ofNat_of_zero_le he
  rw [finValue_eq, zpow_natCast, Int.toNat_natCast]
  cases n <;> simp [signed]

theorem finValue_of_neg (n : Bool) (m : Nat) {e : Int} (he : e < 0) :
    finValue n m e = (signed n m : ℚ) / ((2 ^ (-e).toNat : Nat) : ℚ) := by
  have hexp : (2 : ℚ) ^ e = ((2 : ℚ) ^ (-e).toNat)⁻¹ := by
    rw [← zpow_natCast, ← zpow_neg]
    congr 1
    omega
  rw [finValue, hexp, div_eq_mul_inv]
  push_cast
  rfl

theorem floorInt_eq_floor (n : Bool) (m : Nat) (e : Int) : floorInt n m e = ⌊finValue n m e⌋ := by
  rw [floorInt]
  split
  case isTrue he => rw [finValue_of_nonneg n m he, Int.floor_intCast]
  case isFalse he =>
    rw [finValue_of_neg n m (not_le.1 he), Rat.floor_intCast_div_natCast]
    push_cast
    rfl

theorem natCast_dvd_signed (d : Nat) (n : Bool) (m : Nat) : (d : Int) ∣ signed n m ↔ d ∣ m := by
  cases n <;> simp [signed, Int.natCast_dvd_natCast]

/-- `isIntegral` says when the floor is the value itself. -/
theorem isIntegral_iff_floor_eq (n : Bool) (m : Nat) (e : Int) :
    isIntegral m e = true ↔ ((⌊finValue n m e⌋ : Int) : ℚ) = finValue n m e := by
  by_cases he : 0 ≤ e
  case pos => simp [isIntegral, he, finValue_of_nonneg n m he]
  case neg =>
    have hpos : ((2 ^ (-e).toNat : Nat) : ℚ) ≠ 0 := by positivity
    have hint : isIntegral m e = true ↔ 2 ^ (-e).toNat ∣ m := by simp [isIntegral, he, Nat.dvd_iff_mod_eq_zero]
    rw [hint, ← natCast_dvd_signed _ n, finValue_of_neg n m (not_le.1 he), Rat.floor_intCast_div_natCast,
      eq_div_iff hpos]
    constructor
    · intro h
      exact_mod_cast Int.ediv_mul_cancel h
    · intro h
      exact Dvd.intro_left _ (by exact_mod_cast h)

/-- With an exponent that is not positive, the floor is at most the significand in size. -/
theorem natAbs_floor_finValue_le (n : Bool) (m : Nat) {e : Int} (he : e ≤ 0) : ⌊finValue n m e⌋.natAbs ≤ m := by
  have habs : |finValue n m e| ≤ m := by
    rw [abs_finValue]
    exact mul_le_of_le_one_right (Nat.cast_nonneg m) (zpow_le_one_of_nonpos₀ one_le_two he)
  obtain ⟨hlo, hhi⟩ := abs_le.1 habs
  have hfloorLo : -(m : Int) ≤ ⌊finValue n m e⌋ := Int.le_floor.2 (by push_cast; exact hlo)
  have hfloorHi : ⌊finValue n m e⌋ ≤ m := Int.cast_le.1 ((Int.floor_le _).trans (by push_cast; exact hhi))
  omega

/-- FFLOOR of a finite component: the component itself where its value is an integer, else the floor as a float. -/
theorem ffloor_of_isFinite {fl : Flen} (q : Comp) {a : Comp} (h : isFinite fl a = true) :
    ffloor fl q a = if ((⌊valueOf fl a⌋ : Int) : ℚ) = valueOf fl a then a else intFloat fl ⌊valueOf fl a⌋ := by
  obtain ⟨m, e, hu, _, _, _⟩ := unpack_of_isFinite h
  simp only [ffloor, hu, valueOf_of_unpack hu, isIntegral_iff_floor_eq (signOf fl a), floorInt_eq_floor]

/-- The floor of a finite value that is not an integer is a float. -/
theorem intFloat_floor_exact {fl : Flen} {a : Comp} (h : isFinite fl a = true)
    (hne : ((⌊valueOf fl a⌋ : Int) : ℚ) ≠ valueOf fl a) :
    isFinite fl (intFloat fl ⌊valueOf fl a⌋) = true ∧ valueOf fl (intFloat fl ⌊valueOf fl a⌋) = ⌊valueOf fl a⌋ := by
  obtain ⟨m, e, hu, hm, _, _⟩ := unpack_of_isFinite h
  have he : ¬ 0 ≤ e := by
    intro he
    rw [valueOf_of_unpack hu, finValue_of_nonneg _ m he, Int.floor_intCast] at hne
    exact hne rfl
  rw [valueOf_of_unpack hu]
  exact intFloat_exact ((natAbs_floor_finValue_le _ m (by omega)).trans_lt hm)

/-- FFLOOR is exact. -/
theorem valueOf_ffloor {fl : Flen} (q : Comp) {a : Comp} (h : isFinite fl a = true) :
    isFinite fl (ffloor fl q a) = true ∧ valueOf fl (ffloor fl q a) = ⌊valueOf fl a⌋ := by
  rw [ffloor_of_isFinite q h]
  split
  case isTrue heq => exact ⟨h, heq.symm⟩
  case isFalse hne => exact intFloat_floor_exact h hne

theorem ffloor_of_isNan {fl : Flen} (q : Comp) {a : Comp} (h : isNan fl a = true) : ffloor fl q a = q := by
  have hu : unpack fl a = .nan := if_pos (by simpa [isNan] using h)
  rw [ffloor, hu]

theorem ffloor_of_isInf {fl : Flen} (q : Comp) {a : Comp} (h : isInf fl a = true) : ffloor fl q a = a := by
  have hmag : magOf fl a = fl.infMag := by simpa [isInf] using h
  have hu : unpack fl a = .inf (signOf fl a) := by simp [unpack, hmag]
  rw [ffloor, hu]

/-- Settles O56: the integer is the floor of the value, which `valueOf_ffloor` says the answer is; the two equations
of components are the branches of `ffloor_of_isFinite`. -/
theorem floorIsLargestInteger : Obligations.FloorIsLargestInteger := by
  intro fl q a
  refine ⟨ffloor_of_isNan q, ffloor_of_isInf q, fun h => ?_⟩
  obtain ⟨hfin, hval⟩ := valueOf_ffloor q h
  refine ⟨hfin, ⌊valueOf fl a⌋, hval, Int.floor_le _, Int.lt_floor_add_one _, fun heq => ?_, fun hpos hzero => ?_⟩
  · rw [ffloor_of_isFinite q h, if_pos heq.symm]
  · have hne : ((⌊valueOf fl a⌋ : Int) : ℚ) ≠ valueOf fl a := by
      rw [hzero]
      exact_mod_cast hpos.ne
    rw [ffloor_of_isFinite q h, if_neg hne, hzero, intFloat_zero]

end Sys2Proof
end

section
/-! PROOFS. What a legal register-writing instruction does (40_execution_model.md R60, R61, R68). -/

namespace Sys2Proof.Machine

/-- Writing a result to a legal destination meets the frame the statements about results ask for: the registers by
`storeVector4_readReg`, the read-only regions by `storeVector4_readOnly`, every other field by its own lemma. -/
theorem writeResult_writesOnly {s : State} {d : DstOperand} (hs : s.registersWf = true) (hd : d.wf s.cfg = true)
    (v : Vec4) : s.writesOnly d v (writeResult d v s) := by
  obtain ⟨hregion, _⟩ := (dstOperand_wf_iff _ _).1 hd
  obtain ⟨hinput, hparameter⟩ := storeVector4_readOnly s d v hregion
  have hreg (r : Region) (i : Nat) (c : CIdx) := storeVector4_readReg s d v r i c (dst_index_lt_length hs hd)
  have hprotected : s.sameProtected (writeResult d v s) :=
    ⟨writeResult_cfg s d v, hinput, hparameter, writeResult_imem s d v, writeResult_progLen s d v⟩
  have hcontrol : s.sameControl (writeResult d v s) := by simp [State.sameControl]
  exact ⟨fun r i c => by rw [writeResult_readReg, hreg], storeVector4_region_length s d v .output,
    storeVector4_region_length s d v .temporary, hprotected, fun a => by rw [writeResult_imem],
    writeResult_ar s d v, writeResult_ip s d v, hcontrol⟩

/-- The destination of a legal instruction is legal. -/
theorem dst_wf_of_instr_wf {c : Config} {i : Instr} {d : DstOperand} (hi : i.wf c = true) (hd : i.dst? = some d) :
    d.wf c = true := by
  rw [Instr.wf, hd, Bool.and_eq_true] at hi
  exact hi.1

theorem effectOf_of_dst {i : Instr} {d : DstOperand} (s : State) (hd : i.dst? = some d) :
    effectOf i s = writeResult d (resultOf i s) s := by rw [effectOf, hd]

/-- A legal instruction with a register destination completes, and all it does is to write its result there. -/
theorem exec_writesOnly {s : State} {i : Instr} {d : DstOperand} (hs : s.registersWf = true)
    (hi : i.wf s.cfg = true) (hd : i.dst? = some d) :
    ∃ s', exec i s = .next s' ∧ s.writesOnly d (resultOf i s) s' := by
  refine ⟨writeResult d (resultOf i s) s, ?_, writeResult_writesOnly hs (dst_wf_of_instr_wf hi hd) _⟩
  rw [exec_ok hi, effectOf_of_dst s hd]

end Sys2Proof.Machine
end

section
/-! PROOFS. Results and frames of MOV, ABS, ADD, SUB, MUL, SLT and SGE (42_componentwise.md R110 to R114, R118,
R119). -/

namespace Sys2Proof

@[simp] theorem fzero_false (fl : Flen) : fzero fl false = 0 := rfl

theorem boolFloat_eq (fl : Flen) (b : Bool) : boolFloat fl b = if b then fone fl else 0 := by
  rw [boolFloat, fzero_false]

end Sys2Proof

namespace Sys2Proof.Machine

/-! ### The results by component -/

section Results

variable (s : State) (d : DstOperand) (t u : SrcOperand)

theorem resultOf_mov : resultOf (.mov d t) s = fetchVector4 s t := rfl

theorem resultOf_abs :
    resultOf (.abs d t) s = .ofFn fun i => fabs s.cfg.flen ((fetchVector4 s t).get i) := rfl

theorem resultOf_add : resultOf (.add d t u) s =
    .ofFn fun i => fadd s.cfg.flen (nanFor s i) ((fetchVector4 s t).get i) ((fetchVector4 s u).get i) := rfl

theorem resultOf_sub : resultOf (.sub d t u) s =
    .ofFn fun i => fsub s.cfg.flen (nanFor s i) ((fetchVector4 s t).get i) ((fetchVector4 s u).get i) := rfl

theorem resultOf_mul : resultOf (.mul d t u) s =
    .ofFn fun i => fmul s.cfg.flen (nanFor s i) ((fetchVector4 s t).get i) ((fetchVector4 s u).get i) := rfl

theorem resultOf_slt : resultOf (.slt d t u) s = .ofFn fun i =>
    if flt s.cfg.flen ((fetchVector4 s t).get i) ((fetchVector4 s u).get i) then fone s.cfg.flen else 0 := by
  simp only [resultOf, sltVec, boolFloat_eq]

theorem resultOf_sge : resultOf (.sge d t u) s = .ofFn fun i =>
    if fge s.cfg.flen ((fetchVector4 s t).get i) ((fetchVector4 s u).get i) then fone s.cfg.flen else 0 := by
  simp only [resultOf, sgeVec, boolFloat_eq]

end Results

/-! ### The obligations -/

/-- Settles O33: `exec_writesOnly` at MOV and ABS, with their results by component. -/
theorem movAbsResults : Obligations.MovAbsResults := by
  intro s d t hs
  rw [← resultOf_abs s d t, ← resultOf_mov s d t]
  exact ⟨fun hmov => exec_writesOnly hs hmov rfl, fun habs => exec_writesOnly hs habs rfl⟩

/-- Settles O34: `exec_writesOnly` at ADD, SUB and MUL, with their results by component. -/
theorem addSubMulResults : Obligations.AddSubMulResults := by
  intro s d t u hs
  dsimp only
  rw [← resultOf_add s d t u, ← resultOf_sub s d t u, ← resultOf_mul s d t u]
  exact ⟨fun hadd => exec_writesOnly hs hadd rfl, fun hsub => exec_writesOnly hs hsub rfl,
    fun hmul => exec_writesOnly hs hmul rfl⟩

/-- Settles O37: `exec_writesOnly` at SLT and SGE, with their results by component; the `+0` of R118 and R119 has no
bit set. -/
theorem sltSgeResults : Obligations.SltSgeResults := by
  intro s d t u hs
  dsimp only
  rw [← resultOf_slt s d t u, ← resultOf_sge s d t u]
  exact ⟨fun hslt => exec_writesOnly hs hslt rfl, fun hsge => exec_writesOnly hs hsge rfl⟩

end Sys2Proof.Machine
end

section
/-! PROOFS. Result and frame of DST (43_dot_products.md R133). -/

namespace Sys2Proof.Machine

/-- The four components of DST's result: the literal `1.0`, the rounded product, and the two copies. -/
theorem resultOf_dst (s : State) (d : DstOperand) (t u : SrcOperand) : resultOf (.dst d t u) s =
    ⟨fone s.cfg.flen, fmul s.cfg.flen (nanFor s 1) (fetchVector4 s t).y (fetchVector4 s u).y, (fetchVector4 s t).z,
      (fetchVector4 s u).w⟩ := rfl

/-- Settles O39: `exec_writesOnly` at DST, with its result by component. -/
theorem distanceVectorResult : Obligations.DistanceVectorResult := by
  intro s d t u hs hdst
  rw [← resultOf_dst s d t u]
  exact exec_writesOnly hs hdst rfl

end Sys2Proof.Machine
end

section
/-! PROOFS. Host commands issued while not RUNNING: INIT and RUN (49_host_commands.md R170, R176, R177). -/

namespace Sys2Proof

/-! ### Arguments that fit reach the machine bit-exact (R170 (d)) -/

theorem Comp.fit_eq_self {fl : Flen} {x : Comp} (h : Machine.compFits fl x = true) : Comp.fit fl x = x := by
  have hlt : x.toNat < 2 ^ fl.bits := of_decide_eq_true h
  rw [Comp.fit, Nat.mod_eq_of_lt hlt, BitVec.ofNat_toNat, BitVec.setWidth_eq]

theorem Vec4.fit_eq_self {fl : Flen} {v : Vec4} (h : Machine.vecFits fl v = true) : v.fit fl = v := by
  simp only [Machine.vecFits, Bool.and_eq_true] at h
  obtain ⟨⟨⟨hx, hy⟩, hz⟩, hw⟩ := h
  rw [Vec4.fit, Comp.fit_eq_self hx, Comp.fit_eq_self hy, Comp.fit_eq_self hz, Comp.fit_eq_self hw]

end Sys2Proof

namespace Sys2Proof.Machine

/-! ### A step at which the host issues a command -/

theorem State.dropMove_eq {s : State} {m : HostMove} {l : List HostMove} (h : s.pending = m :: l) :
    s.dropMove = { s with pending := l } := by rw [State.dropMove, h, List.tail_cons]

theorem step_issue {s : State} {c : HostCommand} {l : List HostMove} (h : s.pending = .issue c :: l) :
    step s = .next (hostCommand c s.dropMove) := by rw [step, machineStep, h]

/-- While not RUNNING, a command held back only by `whenStopped` takes effect. -/
theorem step_issue_stopped {s : State} {c : HostCommand} {f : State → State} {l : List HostMove}
    (hc : ∀ u, hostCommand c u = whenStopped u f) (hstop : s.status ≠ .running) (h : s.pending = .issue c :: l) :
    step s = .next (f s.dropMove) := by
  rw [step_issue h, hc, whenStopped, if_neg (by rwa [State.dropMove_status])]

theorem step_run {s : State} {l : List HostMove} (hstop : s.status ≠ .running) (h : s.pending = .issue .run :: l) :
    step s = .next (hostRun s.dropMove) := step_issue_stopped (fun _ => rfl) hstop h

theorem step_init {s : State} {a : Vector Vec4 16} {l : List HostMove} (hstop : s.status ≠ .running)
    (h : s.pending = .issue (.init a) :: l) : step s = .next (hostInit a s.dropMove) :=
  step_issue_stopped (fun _ => rfl) hstop h

/-! ### The registers after INIT -/

theorem hostInit_readReg_input (s : State) (a : Vector Vec4 16) (i : Fin 16) :
    (hostInit a s).readReg .input i = a[i].fit s.cfg.flen := by
  simp [State.readReg, State.region]

theorem hostInit_readReg_output (s : State) (a : Vector Vec4 16) {i : Nat} (h : i < s.cfg.numOut) :
    (hostInit a s).readReg .output i = initVec s.cfg.flen := by
  simp [State.readReg, State.region, h]

theorem hostInit_readReg_temporary (s : State) (a : Vector Vec4 16) {i : Nat} (h : i < s.cfg.numTmp) :
    (hostInit a s).readReg .temporary i = initVec s.cfg.flen := by
  simp [State.readReg, State.region, h]

theorem initVec_eq (fl : Flen) : initVec fl = ⟨0, 0, 0, fone fl⟩ := by rw [initVec, fzero_false]

/-- INIT changes the vertex state and marks the command accepted. -/
theorem hostInit_frame (s : State) (a : Vector Vec4 16) :
    hostInit a s =
      { s with
        input := (hostInit a s).input
        output := (hostInit a s).output
        temporary := (hostInit a s).temporary
        ar := 0
        reply := .accepted } := rfl

/-! ### The obligations -/

/-- Settles O27: the step is `hostInit`; its registers are read back one region at a time, where an attribute that
fits is its own cut to `FLEN` bits, and the rest is `hostInit_frame`. -/
theorem initSetsVertexState : Obligations.InitSetsVertexState := by
  intro s a l hstop hfits hpending
  refine ⟨hostInit a s.dropMove, step_init hstop hpending, fun i => ?input, ?inputLength, fun i hi => ?output,
    ?outputLength, fun i hi => ?temporary, ?temporaryLength, hostInit_ar _ a, ?frame⟩
  case input => exact (hostInit_readReg_input _ a i).trans (Vec4.fit_eq_self (hfits i))
  case inputLength => simp
  case output => exact (hostInit_readReg_output _ a hi).trans (initVec_eq _)
  case outputLength => simp
  case temporary => exact (hostInit_readReg_temporary _ a hi).trans (initVec_eq _)
  case temporaryLength => simp
  case frame =>
    rw [State.dropMove_eq hpending]
    exact hostInit_frame _ a

/-- Settles O28: the step is `hostRun`, which writes `ip`, FAULT_CAUSE, FAULT_IP and STATUS. -/
theorem runStartsAtZero : Obligations.RunStartsAtZero := by
  intro s l hstop hpending
  rw [step_run hstop hpending, State.dropMove_eq hpending]
  rfl

end Sys2Proof.Machine
end

section
/-! PROOFS. The round trips of the encoding and the rows of the opcode table (30_encoding.md R40 to R51). -/

namespace Sys2Proof

/-! ### Decoding an encoded instruction (R47) -/

theorem encodeSrcAt_nil (k : Nat) : encodeSrcAt [] k = 0 := rfl

theorem encodeSrcAt_cons_zero (o : SrcOperand) (l : List SrcOperand) : encodeSrcAt (o :: l) 0 = encodeSrc o := rfl

theorem encodeSrcAt_cons_succ (o : SrcOperand) (l : List SrcOperand) (k : Nat) :
    encodeSrcAt (o :: l) (k + 1) = encodeSrcAt l k := by
  simp [encodeSrcAt]

theorem encodeW0Of_of_dst {i : Instr} {d : DstOperand} (h : i.dst? = some d) :
    encodeW0Of i = encodeW0 i.opcode d := by
  rw [encodeW0Of, h]

theorem encodeW0Of_of_noDst {i : Instr} (h : i.dst? = none) : encodeW0Of i = encodeW0NoDst i.opcode := by
  rw [encodeW0Of, h]

theorem dstReservedZero_encodeW0NoDst (op : BitVec 5) : dstReservedZero (encodeW0NoDst op) = true := by
  simp (disch := decide) only [dstReservedZero, encodeW0NoDst, extract_cast, extract_append_high, Nat.reduceSub]
  rfl

theorem dstFields_encodeW0NoDst (op : BitVec 5) : (encodeW0NoDst op).extractLsb' 8 14 = 0#14 := by
  simp (disch := decide) only [encodeW0NoDst, extract_cast, extract_append_high, Nat.reduceSub]
  rfl

theorem dstReservedZero_encodeW0Of (i : Instr) : dstReservedZero (encodeW0Of i) = true := by
  cases h : i.dst? with
  | none => rw [encodeW0Of_of_noDst h, dstReservedZero_encodeW0NoDst]
  | some d => rw [encodeW0Of_of_dst h, dstReservedZero_encodeW0]

/-- The encoder leaves every reserved bit zero. -/
theorem reservedZero_encode (i : Instr) : reservedZero (encode i) i.srcs.length = true := by
  obtain ⟨hw0, hs0, hs1, hs2⟩ := subWord_encode i
  rw [reservedZero, hw0, hs0, hs1, hs2, dstReservedZero_encodeW0Of]
  rcases i.srcs with _ | ⟨a, _ | ⟨b, _ | ⟨c, l⟩⟩⟩ <;>
    simp [encodeSrcAt_nil, encodeSrcAt_cons_zero, encodeSrcAt_cons_succ, srcReservedZero_encodeSrc]

theorem dstFieldsZero_encode {i : Instr} (h : i.dst? = none) : dstFieldsZero (encode i) = true := by
  rw [dstFieldsZero, (subWord_encode i).1, encodeW0Of_of_noDst h, dstFields_encodeW0NoDst]
  rfl

theorem decodeDst_encode {i : Instr} {d : DstOperand} (h : i.dst? = some d) :
    decodeDst (subWord (encode i) 0) = d := by
  rw [(subWord_encode i).1, encodeW0Of_of_dst h, decodeDst_encodeW0]

section Shapes

variable {i : Instr} {d : DstOperand} {t u v : SrcOperand}

theorem decodeSrc_encode_one {l : List SrcOperand} (h : i.srcs = t :: l) :
    decodeSrc (subWord (encode i) 1) = t := by
  obtain ⟨_, h1, _, _⟩ := subWord_encode i
  rw [h1, h, encodeSrcAt_cons_zero, decodeSrc_encodeSrc]

theorem decodeSrc_encode_two {l : List SrcOperand} (h : i.srcs = t :: u :: l) :
    decodeSrc (subWord (encode i) 2) = u := by
  obtain ⟨_, _, h2, _⟩ := subWord_encode i
  rw [h2, h, encodeSrcAt_cons_succ, encodeSrcAt_cons_zero, decodeSrc_encodeSrc]

theorem decodeSrc_encode_three {l : List SrcOperand} (h : i.srcs = t :: u :: v :: l) :
    decodeSrc (subWord (encode i) 3) = v := by
  obtain ⟨_, _, _, h3⟩ := subWord_encode i
  rw [h3, h, encodeSrcAt_cons_succ, encodeSrcAt_cons_succ, encodeSrcAt_cons_zero,
    decodeSrc_encodeSrc]

theorem guardReserved_encode {n : Nat} (hn : i.srcs.length = n) (j : Instr) :
    guardReserved (reservedZero (encode i) n) j = .instr j := by
  rw [← hn, reservedZero_encode, guardReserved, if_pos rfl]

theorem decode1_encode (mk : DstOperand → SrcOperand → Instr) (hd : i.dst? = some d) (hs : i.srcs = [t]) :
    decode1 (encode i) mk = .instr (mk d t) := by
  rw [decode1, guardReserved_encode (by rw [hs]; rfl), decodeDst_encode hd, decodeSrc_encode_one hs]

theorem decode2_encode (mk : DstOperand → SrcOperand → SrcOperand → Instr) (hd : i.dst? = some d)
    (hs : i.srcs = [t, u]) : decode2 (encode i) mk = .instr (mk d t u) := by
  rw [decode2, guardReserved_encode (by rw [hs]; rfl), decodeDst_encode hd, decodeSrc_encode_one hs,
    decodeSrc_encode_two hs]

theorem decode3_encode (mk : DstOperand → SrcOperand → SrcOperand → SrcOperand → Instr) (hd : i.dst? = some d)
    (hs : i.srcs = [t, u, v]) : decode3 (encode i) mk = .instr (mk d t u v) := by
  rw [decode3, guardReserved_encode (by rw [hs]; rfl), decodeDst_encode hd, decodeSrc_encode_one hs,
    decodeSrc_encode_two hs, decodeSrc_encode_three hs]

/-- ARL and END decode under the further condition that their destination fields are zero (R47). -/
theorem guardReserved_encode_noDst {n : Nat} (hd : i.dst? = none) (hn : i.srcs.length = n) (j : Instr) :
    guardReserved (reservedZero (encode i) n && dstFieldsZero (encode i)) j = .instr j := by
  rw [dstFieldsZero_encode hd, Bool.and_true, guardReserved_encode hn]

end Shapes

theorem opcodeField_encode_eq (i : Instr) : opcodeField (encode i) = i.opcode.toNat := by
  cases h : i.dst? with
  | none => exact Laws.opcodeOfEncode_noDst i h
  | some d => exact Laws.opcodeOfEncode_withDst i d h

/-- Settles O1: the opcode number leads `decode` to the arm of the instruction, and there every field reads back. -/
theorem decodeReadsBackEncode : Obligations.DecodeReadsBackEncode := by
  intro i
  rw [decode, opcodeField_encode_eq]
  cases i with
  | endProg => exact guardReserved_encode_noDst rfl rfl _
  | arl t =>
    have ht : decodeSrc (subWord (encode (.arl t)) 1) = t := decodeSrc_encode_one rfl
    exact (guardReserved_encode_noDst rfl rfl _).trans (by rw [ht])
  | mov d t => exact decode1_encode .mov rfl rfl
  | lit d t => exact decode1_encode .lit rfl rfl
  | rcp d t => exact decode1_encode .rcp rfl rfl
  | rsq d t => exact decode1_encode .rsq rfl rfl
  | exp d t => exact decode1_encode .exp rfl rfl
  | log d t => exact decode1_encode .log rfl rfl
  | rcc d t => exact decode1_encode .rcc rfl rfl
  | abs d t => exact decode1_encode .abs rfl rfl
  | mul d t u => exact decode2_encode .mul rfl rfl
  | add d t u => exact decode2_encode .add rfl rfl
  | dp3 d t u => exact decode2_encode .dp3 rfl rfl
  | dp4 d t u => exact decode2_encode .dp4 rfl rfl
  | dst d t u => exact decode2_encode .dst rfl rfl
  | min d t u => exact decode2_encode .min rfl rfl
  | max d t u => exact decode2_encode .max rfl rfl
  | slt d t u => exact decode2_encode .slt rfl rfl
  | sge d t u => exact decode2_encode .sge rfl rfl
  | dph d t u => exact decode2_encode .dph rfl rfl
  | sub d t u => exact decode2_encode .sub rfl rfl
  | mad d t u v => exact decode3_encode .mad rfl rfl

/-- Settles O4: the three words are the encodings, which O1 reads back. -/
theorem workedEncodingsOfMadMovEnd : Obligations.WorkedEncodingsOfMadMovEnd := by
  unfold Obligations.WorkedEncodingsOfMadMovEnd
  intro id mad mov
  have hmad : encode mad = 0x00039301_00039300_00039000_003D0010 := by decide
  have hmov : encode mov = 0x00000000_00000000_00038600_000E0001 := by decide
  have hend : encode .endProg = 0 := by decide
  exact ⟨hmad, hmad ▸ decodeReadsBackEncode mad, hmov, hmov ▸ decodeReadsBackEncode mov, hend,
    hend ▸ decodeReadsBackEncode .endProg⟩

/-! ### What a decoded word is (R47) -/

/-- The three source sub-words of a word, decoded. -/
def wordSrcs (w : IWord) : List SrcOperand :=
  [decodeSrc (subWord w 1), decodeSrc (subWord w 2), decodeSrc (subWord w 3)]

/-- The word has the opcode and the zero bits, and its fields are the operands, of an instruction. -/
structure IsWordOf (w : IWord) (i : Instr) : Prop where
  opcode : opcodeField w = i.opcode.toNat
  reserved : reservedZero w i.srcs.length = true
  dst : i.dst? = some (decodeDst (subWord w 0)) ∨ (i.dst? = none ∧ dstFieldsZero w = true)
  srcs : i.srcs = (wordSrcs w).take i.srcs.length

theorem guardReserved_eq_instr {ok : Bool} {j i : Instr} (h : guardReserved ok j = .instr i) :
    ok = true ∧ j = i := by
  cases ok
  · cases h
  · exact ⟨rfl, Decoded.instr.inj h⟩

theorem isWordOf_of_guardReserved {w : IWord} {n : Nat} {j i : Instr}
    (h : guardReserved (reservedZero w n) j = .instr i) (hop : opcodeField w = j.opcode.toNat)
    (hn : j.srcs.length = n) (hd : j.dst? = some (decodeDst (subWord w 0)))
    (hs : j.srcs = (wordSrcs w).take j.srcs.length) : IsWordOf w i := by
  obtain ⟨hres, rfl⟩ := guardReserved_eq_instr h
  exact ⟨hop, hn ▸ hres, .inl hd, hs⟩

theorem isWordOf_of_guardReserved_noDst {w : IWord} {n : Nat} {j i : Instr}
    (h : guardReserved (reservedZero w n && dstFieldsZero w) j = .instr i) (hop : opcodeField w = j.opcode.toNat)
    (hn : j.srcs.length = n) (hd : j.dst? = none) (hs : j.srcs = (wordSrcs w).take j.srcs.length) :
    IsWordOf w i := by
  obtain ⟨hok, rfl⟩ := guardReserved_eq_instr h
  obtain ⟨hres, hfields⟩ := Bool.and_eq_true_iff.1 hok
  exact ⟨hop, hn ▸ hres, .inr ⟨hd, hfields⟩, hs⟩

/-- All that a word which decodes to an instruction can be. -/
theorem isWordOf_of_decode {w : IWord} {i : Instr} (h : decode w = .instr i) : IsWordOf w i := by
  unfold decode at h
  split at h
  case h_1 hop => exact isWordOf_of_guardReserved_noDst h hop rfl rfl rfl
  case h_18 hop => exact isWordOf_of_guardReserved_noDst h hop rfl rfl rfl
  case h_23 => cases h
  all_goals exact isWordOf_of_guardReserved h ‹_› rfl rfl rfl

end Sys2Proof
end

section
/-! PROOFS. The other direction of the round trip, and the rows of the opcode table (30_encoding.md R41 to R47). -/

namespace Sys2Proof

/-! ### Encoding what was decoded (R45, R47) -/

theorem Region.code_ofCode (c : BitVec 2) : (Region.ofCode c).code = c := by
  revert c
  decide

/-- Two adjacent fields put together are the field they span. -/
theorem extract_append_extract {n : Nat} (a : BitVec n) (k l m : Nat) :
    a.extractLsb' (k + l) m ++ a.extractLsb' k l = a.extractLsb' k (m + l) := by
  apply BitVec.eq_of_getLsbD_eq
  intro i hi
  simp only [BitVec.getLsbD_append, BitVec.getLsbD_extractLsb', hi, decide_true, Bool.true_and]
  by_cases h : i < l
  · simp [h]
  · simp only [h, if_false, show i - l < m by omega, decide_true, Bool.true_and]
    congr 1
    omega

theorem ofBool_getLsbD {n : Nat} (a : BitVec n) (k : Nat) : BitVec.ofBool (a.getLsbD k) = a.extractLsb' k 1 := by
  apply BitVec.eq_of_getLsbD_eq
  intro i hi
  obtain rfl : i = 0 := by omega
  simp

theorem swzCode_toFin (c : BitVec 2) : swzCode c.toFin = c := rfl

/-- Fields that lie side by side, from bit 0 up to the whole width, put together are the value. -/
theorem cast_extract {n m : Nat} (h : m = n) (a : BitVec n) : (a.extractLsb' 0 m).cast h = a := by
  subst h
  exact extract_all a

theorem encodeSrc_decodeSrc {s : BitVec 32} (h : srcReservedZero s = true) : encodeSrc (decodeSrc s) = s := by
  have hzero : 0#12 = s.extractLsb' 20 12 := (eq_of_beq h).symm
  simp only [encodeSrc, decodeSrc, Region.code_ofCode, swzCode_toFin, ofBool_getLsbD, hzero]
  rw [extract_append_extract s 19 1 12, extract_append_extract s 18 1, extract_append_extract s 16 2,
    extract_append_extract s 14 2, extract_append_extract s 12 2, extract_append_extract s 10 2,
    extract_append_extract s 8 2, extract_append_extract s 0 8, cast_extract]

theorem encodeW0_decodeDst {w0 : BitVec 32} {op : BitVec 5} (h : dstReservedZero w0 = true)
    (hop : w0.extractLsb' 0 5 = op) : encodeW0 op (decodeDst w0) = w0 := by
  obtain ⟨hlow, hhigh⟩ := Bool.and_eq_true_iff.1 h
  have hzero3 : 0#3 = w0.extractLsb' 5 3 := (eq_of_beq hlow).symm
  have hzero10 : 0#10 = w0.extractLsb' 22 10 := (eq_of_beq hhigh).symm
  simp only [encodeW0, decodeDst, Region.code_ofCode, hzero3, hzero10, ← hop]
  rw [extract_append_extract w0 18 4, extract_append_extract w0 16 2, extract_append_extract w0 8 8,
    extract_append_extract w0 5 3, extract_append_extract w0 0 5, cast_extract]

theorem encodeW0NoDst_eq {w0 : BitVec 32} {op : BitVec 5} (h : dstReservedZero w0 = true)
    (hfields : w0.extractLsb' 8 14 = 0#14) (hop : w0.extractLsb' 0 5 = op) : encodeW0NoDst op = w0 := by
  obtain ⟨hlow, hhigh⟩ := Bool.and_eq_true_iff.1 h
  have hzero : 0#27 = w0.extractLsb' 5 27 :=
    calc 0#27 = w0.extractLsb' 22 10 ++ w0.extractLsb' 8 14 ++ w0.extractLsb' 5 3 := by
          rw [eq_of_beq hlow, eq_of_beq hhigh, hfields]; rfl
      _ = w0.extractLsb' 5 27 := by rw [extract_append_extract w0 8 14, extract_append_extract w0 5 3]
  rw [encodeW0NoDst, hzero, ← hop, extract_append_extract w0 0 5, cast_extract]

/-- A word is its four sub-words. -/
theorem eq_of_subWord_eq {w w' : IWord} (h : ∀ k < 4, subWord w k = subWord w' k) : w = w' := by
  have hjoin (x : IWord) :
      (subWord x 3 ++ subWord x 2 ++ subWord x 1 ++ subWord x 0 : BitVec (32 + 32 + 32 + 32)).cast rfl = x := by
    rw [subWord, subWord, subWord, subWord, extract_append_extract x 64 32, extract_append_extract x 32 32,
      extract_append_extract x 0 32, cast_extract]
  rw [← hjoin w, ← hjoin w', h 0 (by decide), h 1 (by decide), h 2 (by decide), h 3 (by decide)]

/-- What `reservedZero` says of the source sub-words: the used ones have no reserved bit, the others no bit. -/
theorem reservedZero_iff (w : IWord) (n : Nat) : reservedZero w n = true ↔
    dstReservedZero (subWord w 0) = true ∧
      ∀ k < 3, if k < n then srcReservedZero (subWord w (k + 1)) = true else subWord w (k + 1) = 0 := by
  have hall (p : Nat → Prop) : (∀ k < 3, p k) ↔ p 0 ∧ p 1 ∧ p 2 :=
    ⟨fun h => ⟨h 0 (by decide), h 1 (by decide), h 2 (by decide)⟩, fun h k hk => by
      obtain ⟨h0, h1, h2⟩ := h
      interval_cases k <;> assumption⟩
  rw [hall, reservedZero]
  simp only [Bool.and_eq_true, and_assoc]
  by_cases h0 : 0 < n <;> by_cases h1 : 1 < n <;> by_cases h2 : 2 < n <;>
    simp [h0, h1, h2, Nat.succ_le_iff]

theorem subWord_encode_succ (i : Instr) {k : Nat} (hk : k < 3) :
    subWord (encode i) (k + 1) = encodeSrcAt i.srcs k := by
  obtain ⟨_, h0, h1, h2⟩ := subWord_encode i
  interval_cases k
  · exact h0
  · exact h1
  · exact h2

theorem wordSrcs_getElem? (w : IWord) {k : Nat} (hk : k < 3) :
    (wordSrcs w)[k]? = some (decodeSrc (subWord w (k + 1))) := by
  interval_cases k <;> rfl

theorem extract_subWord_zero (w : IWord) {k l : Nat} (h : k + l ≤ 32) :
    (subWord w 0).extractLsb' k l = w.extractLsb' k l := by
  apply BitVec.eq_of_getLsbD_eq
  intro i hi
  simp [subWord, hi, show k + i < 32 by omega]

theorem IsWordOf.encodeW0Of_eq {w : IWord} {i : Instr} (h : IsWordOf w i) : encodeW0Of i = subWord w 0 := by
  obtain ⟨hres, _⟩ := (reservedZero_iff w _).1 h.reserved
  have hop : (subWord w 0).extractLsb' 0 5 = i.opcode := by
    rw [extract_subWord_zero w (by decide)]
    exact BitVec.eq_of_toNat_eq h.opcode
  rcases h.dst with hd | ⟨hd, hfields⟩
  · rw [encodeW0Of_of_dst hd, encodeW0_decodeDst hres hop]
  · rw [encodeW0Of_of_noDst hd, encodeW0NoDst_eq hres (eq_of_beq hfields) hop]

theorem IsWordOf.encodeSrcAt_eq {w : IWord} {i : Instr} (h : IsWordOf w i) {k : Nat} (hk : k < 3) :
    encodeSrcAt i.srcs k = subWord w (k + 1) := by
  have hres := ((reservedZero_iff w _).1 h.reserved).2 k hk
  by_cases hused : k < i.srcs.length
  · rw [if_pos hused] at hres
    have hsrc : i.srcs[k]? = some (decodeSrc (subWord w (k + 1))) := by
      rw [h.srcs, List.getElem?_take_of_lt hused, wordSrcs_getElem? w hk]
    rw [encodeSrcAt, hsrc]
    exact encodeSrc_decodeSrc hres
  · rw [if_neg hused] at hres
    rw [encodeSrcAt, List.getElem?_eq_none (not_lt.1 hused), hres]

/-- Settles O2: sub-word by sub-word, the encoder puts back the fields the decoder took out, and zeros where the
decoder asked for zeros. -/
theorem encodeReadsBackDecode : Obligations.EncodeReadsBackDecode := by
  intro w i hdecode
  have h := isWordOf_of_decode hdecode
  refine eq_of_subWord_eq fun k hk => ?_
  cases k with
  | zero => exact (subWord_encode i).1.trans h.encodeW0Of_eq
  | succ k => exact (subWord_encode_succ i (by omega)).trans (h.encodeSrcAt_eq (by omega))

/-! ### The rows of the opcode table -/

/-- The number of source operands of an opcode (R46). -/
def opSources : Nat → Nat
  | 0 => 0
  | 16 => 3
  | n => if n ∈ [7, 8, 9, 10, 11, 12, 13, 14, 15, 18, 20] then 2 else 1

/-- An opcode has a register destination (R46). -/
def opHasDst (n : Nat) : Bool := n != 0 && n != 17

/-- The mask of a source sub-word: its reserved bits if it is used, else all bits. -/
def srcMask (used : Bool) : BitVec 32 := if used then 0xFFF00000 else 0xFFFFFFFF

/-- The mask of `W0`: opcode and reserved bits, and without a register destination its fields too. -/
def w0Mask (hasDst : Bool) : BitVec 32 := if hasDst then 0xFFC000FF else 0xFFFFFFFF

/-- The mask of the rows of `n` sources. -/
def rowMask (n : Nat) (hasDst : Bool) : IWord :=
  (srcMask (2 < n) ++ srcMask (1 < n) ++ srcMask (0 < n) ++ w0Mask hasDst : BitVec (32 + 32 + 32 + 32)).cast (by rfl)

theorem opcodeRows_eq :
    opcodeRows = (List.range 22).map fun k => (rowMask (opSources k) (opHasDst k), BitVec.ofNat 128 k) := by decide

theorem subWord_and (w w' : IWord) (k : Nat) : subWord (w &&& w') k = subWord w k &&& subWord w' k := by
  apply BitVec.eq_of_getLsbD_eq
  intro i hi
  simp [subWord, hi]

theorem subWord_rowMask (n : Nat) (b : Bool) :
    subWord (rowMask n b) 0 = w0Mask b ∧ subWord (rowMask n b) 1 = srcMask (0 < n) ∧
      subWord (rowMask n b) 2 = srcMask (1 < n) ∧ subWord (rowMask n b) 3 = srcMask (2 < n) := by
  simp (disch := decide) only [subWord, rowMask, extract_cast, extract_append_low, extract_append_high,
    Nat.reduceMul, Nat.reduceSub, extract_all, and_self]

theorem subWord_rowMask_succ (n : Nat) (b : Bool) {k : Nat} (hk : k < 3) :
    subWord (rowMask n b) (k + 1) = srcMask (k < n) := by
  obtain ⟨_, h0, h1, h2⟩ := subWord_rowMask n b
  interval_cases k
  · exact h0
  · exact h1
  · exact h2

/-- A 32-bit value has none of the bits of a mask. -/
theorem and_eq_zero_iff (s m : BitVec 32) : s &&& m = 0 ↔ ∀ i < 32, m.getLsbD i = true → s.getLsbD i = false := by
  constructor
  · intro h i _ hm
    have := congrArg (·.getLsbD i) h
    simpa [hm] using this
  · intro h
    apply BitVec.eq_of_getLsbD_eq
    intro i hi
    have := h i hi
    cases hm : m.getLsbD i <;> simp_all

theorem extract_eq_zero_iff {n : Nat} (a : BitVec n) (k l : Nat) :
    a.extractLsb' k l = 0#l ↔ ∀ i < l, a.getLsbD (k + i) = false := by
  constructor
  · intro h i hi
    have := congrArg (·.getLsbD i) h
    simpa [hi] using this
  · intro h
    apply BitVec.eq_of_getLsbD_eq
    intro i hi
    simp [hi, h i hi]

theorem and_srcMask_eq_zero (s : BitVec 32) (used : Bool) :
    s &&& srcMask used = 0 ↔ if used = true then srcReservedZero s = true else s = 0 := by
  cases used
  · change s &&& BitVec.allOnes 32 = 0 ↔ s = 0
    rw [BitVec.and_allOnes]
  · have hmask : ∀ i < 32, (srcMask true).getLsbD i = decide (20 ≤ i) := by decide
    rw [and_eq_zero_iff, if_pos rfl, srcReservedZero, beq_iff_eq, extract_eq_zero_iff]
    constructor
    · intro h i hi
      exact h (20 + i) (by omega) (by rw [hmask _ (by omega)]; simp)
    · intro h i hi hm
      rw [hmask i hi, decide_eq_true_eq] at hm
      obtain ⟨j, rfl⟩ := Nat.exists_eq_add_of_le hm
      exact h j (by omega)

/-- The bits of `W0` under the mask of a row are those of the opcode, and zeros. -/
theorem and_w0Mask_eq_iff (w0 : BitVec 32) (op : BitVec 5) (hasDst : Bool) :
    w0 &&& w0Mask hasDst = op.setWidth 32 ↔
      w0.extractLsb' 0 5 = op ∧ ∀ i < 32, 5 ≤ i → (w0Mask hasDst).getLsbD i = true → w0.getLsbD i = false := by
  have hlow : ∀ i < 5, (w0Mask hasDst).getLsbD i = true := by cases hasDst <;> decide
  constructor
  · intro h
    have hbit (i : Nat) (hi : i < 32) : (w0.getLsbD i && (w0Mask hasDst).getLsbD i) = op.getLsbD i := by
      have := congrArg (·.getLsbD i) h
      simpa [hi] using this
    refine ⟨BitVec.eq_of_getLsbD_eq fun i hi => ?_, fun i hi h5 hm => ?_⟩
    · have := hbit i (by omega)
      simpa [hi, hlow i hi] using this
    · have := hbit i hi
      rwa [hm, Bool.and_true, BitVec.getLsbD_of_ge _ _ h5] at this
  · rintro ⟨hop, hzero⟩
    apply BitVec.eq_of_getLsbD_eq
    intro i hi
    rw [BitVec.getLsbD_and, BitVec.getLsbD_setWidth, ← hop, BitVec.getLsbD_extractLsb', Nat.zero_add]
    by_cases h5 : i < 5
    · simp [hi, h5, hlow i h5]
    · have := hzero i hi (not_lt.1 h5)
      cases hm : (w0Mask hasDst).getLsbD i <;> simp_all

theorem dstReservedZero_iff (w0 : BitVec 32) : dstReservedZero w0 = true ↔
    (∀ i < 3, w0.getLsbD (5 + i) = false) ∧ ∀ i < 10, w0.getLsbD (22 + i) = false := by
  rw [dstReservedZero, Bool.and_eq_true, beq_iff_eq, beq_iff_eq, extract_eq_zero_iff, extract_eq_zero_iff]

/-- Apart from the opcode, a row asks of `W0` what R47 asks. -/
theorem w0Mask_zero_iff (w0 : BitVec 32) (hasDst : Bool) :
    (∀ i < 32, 5 ≤ i → (w0Mask hasDst).getLsbD i = true → w0.getLsbD i = false) ↔
      dstReservedZero w0 = true ∧ (hasDst = true ∨ w0.extractLsb' 8 14 = 0#14) := by
  rw [dstReservedZero_iff, extract_eq_zero_iff]
  have hmask : ∀ i < 32, (w0Mask hasDst).getLsbD i = (decide (i < 8 ∨ 22 ≤ i) || !hasDst) := by
    cases hasDst <;> decide
  constructor
  · intro h
    refine ⟨⟨fun i hi => h _ (by omega) (by omega) ?_, fun i hi => h _ (by omega) (by omega) ?_⟩, ?_⟩
    · rw [hmask _ (by omega)]; simp; omega
    · rw [hmask _ (by omega)]; simp
    · cases hasDst
      · exact .inr fun i hi => h _ (by omega) (by omega) (by rw [hmask _ (by omega)]; simp)
      · exact .inl rfl
  · rintro ⟨⟨hlow, hhigh⟩, hfields⟩ i hi h5 hm
    rcases Nat.lt_or_ge i 8 with h8 | h8
    · obtain ⟨j, rfl⟩ := Nat.exists_eq_add_of_le h5
      exact hlow j (by omega)
    rcases Nat.lt_or_ge i 22 with h22 | h22
    · have hno : hasDst = false := by
        rw [hmask i hi] at hm
        simpa [show ¬ i < 8 by omega, show ¬ 22 ≤ i by omega] using hm
      obtain ⟨j, rfl⟩ := Nat.exists_eq_add_of_le h8
      exact hfields.resolve_left (by simp [hno]) j (by omega)
    · obtain ⟨j, rfl⟩ := Nat.exists_eq_add_of_le h22
      exact hhigh j (by omega)

theorem subWord_opcode (op : BitVec 5) :
    subWord (op.setWidth 128) 0 = op.setWidth 32 ∧ ∀ k, subWord (op.setWidth 128) (k + 1) = 0 := by
  refine ⟨?_, fun k => ?_⟩ <;> apply BitVec.eq_of_getLsbD_eq <;> intro i hi
  · simp [subWord, hi, show i < 128 by omega]
  · simp [subWord, show op.getLsbD (32 * (k + 1) + i) = false from BitVec.getLsbD_of_ge _ _ (by omega)]

/-- A word matches the row of an opcode exactly if it has this opcode and passes the checks of R47. -/
theorem and_rowMask_eq_iff (w : IWord) (op : BitVec 5) (n : Nat) (hasDst : Bool) :
    w &&& rowMask n hasDst = op.setWidth 128 ↔
      opcodeField w = op.toNat ∧ reservedZero w n = true ∧ (hasDst = true ∨ dstFieldsZero w = true) := by
  obtain ⟨hop0, hopSucc⟩ := subWord_opcode op
  have hw0 : subWord w 0 &&& w0Mask hasDst = op.setWidth 32 ↔
      opcodeField w = op.toNat ∧ dstReservedZero (subWord w 0) = true ∧
        (hasDst = true ∨ dstFieldsZero w = true) := by
    rw [and_w0Mask_eq_iff, w0Mask_zero_iff, extract_subWord_zero w (by decide), opcodeField, BitVec.toNat_inj,
      dstFieldsZero, beq_iff_eq]
  have hsrc (k : Nat) : subWord w (k + 1) &&& srcMask (k < n) = 0 ↔
      if k < n then srcReservedZero (subWord w (k + 1)) = true else subWord w (k + 1) = 0 := by
    rw [and_srcMask_eq_zero]
    simp only [decide_eq_true_eq]
  have hwords : w &&& rowMask n hasDst = op.setWidth 128 ↔
      subWord w 0 &&& w0Mask hasDst = op.setWidth 32 ∧ ∀ k < 3, subWord w (k + 1) &&& srcMask (k < n) = 0 := by
    constructor
    · intro h
      refine ⟨?_, fun k hk => ?_⟩
      · rw [← (subWord_rowMask n hasDst).1, ← subWord_and, h, hop0]
      · rw [← subWord_rowMask_succ n hasDst hk, ← subWord_and, h, hopSucc]
    · rintro ⟨h0, hsucc⟩
      refine eq_of_subWord_eq fun k hk => ?_
      cases k with
      | zero => rw [subWord_and, (subWord_rowMask n hasDst).1, h0, hop0]
      | succ k =>
        rw [subWord_and, subWord_rowMask_succ n hasDst (by omega), hsucc k (by omega), hopSucc]
  simp only [hwords, hw0, hsrc, reservedZero_iff]
  tauto

/-- The row of an instruction's opcode. -/
theorem rowMask_mem_opcodeRows (i : Instr) :
    (rowMask i.srcs.length i.dst?.isSome, i.opcode.setWidth 128) ∈ opcodeRows := by
  rw [opcodeRows_eq, List.mem_map]
  refine ⟨i.opcode.toNat, ?_, ?_⟩
  · cases i <;> simp [Instr.opcode]
  · cases i <;> rfl

section Accepted

variable {w : IWord}

theorem guardReserved_of_ok {ok : Bool} (h : ok = true) (j : Instr) : ∃ i, guardReserved ok j = .instr i :=
  ⟨j, by rw [guardReserved, if_pos h]⟩

theorem exists_decode1 (h : reservedZero w 1 = true) (mk : DstOperand → SrcOperand → Instr) :
    ∃ i, decode1 w mk = .instr i := guardReserved_of_ok h _

theorem exists_decode2 (h : reservedZero w 2 = true) (mk : DstOperand → SrcOperand → SrcOperand → Instr) :
    ∃ i, decode2 w mk = .instr i := guardReserved_of_ok h _

theorem exists_decode3 (h : reservedZero w 3 = true)
    (mk : DstOperand → SrcOperand → SrcOperand → SrcOperand → Instr) : ∃ i, decode3 w mk = .instr i :=
  guardReserved_of_ok h _

/-- A word of a known opcode that passes the checks of R47 decodes to an instruction. -/
theorem exists_decode_eq_instr (hop : opcodeField w < 22)
    (hres : reservedZero w (opSources (opcodeField w)) = true)
    (hdst : opHasDst (opcodeField w) = true ∨ dstFieldsZero w = true) : ∃ i, decode w = .instr i := by
  generalize hk : opcodeField w = k at hop hres hdst
  rw [decode, hk]
  clear hk
  match k, hop, hres, hdst with
  | 0, _, hres, hdst | 17, _, hres, hdst =>
    exact guardReserved_of_ok (Bool.and_eq_true_iff.2 ⟨hres, hdst.resolve_left (by decide)⟩) _
  | 1, _, hres, _ | 2, _, hres, _ | 3, _, hres, _ | 4, _, hres, _ | 5, _, hres, _ | 6, _, hres, _
  | 19, _, hres, _ | 21, _, hres, _ =>
    exact exists_decode1 hres _
  | 7, _, hres, _ | 8, _, hres, _ | 9, _, hres, _ | 10, _, hres, _ | 11, _, hres, _
  | 12, _, hres, _ | 13, _, hres, _ | 14, _, hres, _ | 15, _, hres, _ | 18, _, hres, _
  | 20, _, hres, _ =>
    exact exists_decode2 hres _
  | 16, _, hres, _ => exact exists_decode3 hres _
  | _ + 22, hop, _, _ => exact absurd hop (by omega)

end Accepted

/-- Settles O3: a row of the table asks for an opcode and for the zeros of R47, which is what `decode` asks. -/
theorem decodeMatchesOpcodeTable : Obligations.DecodeMatchesOpcodeTable := by
  refine ⟨fun w i hdecode => ?_, fun w row hrow hmatch => ?_⟩
  · have h := isWordOf_of_decode hdecode
    refine ⟨_, rowMask_mem_opcodeRows i, rfl, (and_rowMask_eq_iff w _ _ _).2 ⟨h.opcode, h.reserved, ?_⟩⟩
    rcases h.dst with hd | ⟨_, hfields⟩
    · exact .inl (by rw [hd]; rfl)
    · exact .inr hfields
  · rw [opcodeRows_eq, List.mem_map] at hrow
    obtain ⟨k, hk, rfl⟩ := hrow
    have hk : k < 22 := List.mem_range.1 hk
    have hop : BitVec.ofNat 128 k = (BitVec.ofNat 5 k).setWidth 128 := by
      apply BitVec.eq_of_toNat_eq
      simp
      omega
    obtain ⟨hfield, hres, hdst⟩ := (and_rowMask_eq_iff w (BitVec.ofNat 5 k) _ _).1 (hmatch.trans hop)
    obtain rfl : opcodeField w = k := by
      rw [hfield, BitVec.toNat_ofNat, Nat.mod_eq_of_lt (by omega)]
    exact exists_decode_eq_instr hk hres hdst

/-! ### Serialised words (R32) -/

theorem getLsbD_ofBytes {n : Nat} (l : List Byte) {i : Nat} (hi : i < n) :
    (ofBytes l : BitVec n).getLsbD i = (l.getD (i / 8) 0).getLsbD (i % 8) := by
  induction l generalizing i with
  | nil => simp [ofBytes]
  | cons b l ih =>
    rw [ofBytes, BitVec.getLsbD_or, BitVec.getLsbD_setWidth, BitVec.getLsbD_shiftLeft]
    by_cases h8 : i < 8
    · simp [h8, hi, Nat.div_eq_of_lt h8, Nat.mod_eq_of_lt h8]
    · obtain ⟨j, rfl⟩ := Nat.exists_eq_add_of_le (not_lt.1 h8)
      have hj : j < n := by omega
      rw [Nat.add_sub_cancel_left, ih hj, BitVec.getLsbD_of_ge b _ (by omega), Nat.add_div_left _ (by decide),
        List.getD_cons_succ, Nat.add_mod_left]
      simp [hi]

theorem toBytes_getElem? {n : Nat} (k : Nat) (v : BitVec n) {j : Nat} (hj : j < k) :
    (toBytes k v)[j]? = some (v.extractLsb' (8 * j) 8) := by
  simp [toBytes, hj]

/-- As many bytes as a value needs read back as the value. -/
theorem ofBytes_toBytes {n k : Nat} (h : n ≤ 8 * k) (v : BitVec n) : ofBytes (toBytes k v) = v := by
  apply BitVec.eq_of_getLsbD_eq
  intro i hi
  rw [getLsbD_ofBytes _ hi, List.getD_eq_getElem?_getD, toBytes_getElem? k v (by omega), Option.getD_some,
    BitVec.getLsbD_extractLsb', Nat.div_add_mod]
  simp [Nat.mod_lt]

/-- Settles O5: byte k is the bits 8k+7..8k, and 16 bytes are all 128 bits. -/
theorem wordBytesAreLittleEndian : Obligations.WordBytesAreLittleEndian :=
  ⟨fun w => ofBytes_toBytes (by decide) w, fun w _ hk => toBytes_getElem? 16 w hk⟩

end Sys2Proof
end

section
/-! PROOFS. What a step does, said once for the dispatcher and once for the host, and the statements about the order of
steps, END, and rest (40_execution_model.md R60 to R63, 45_address_end.md R161, R162). -/

namespace Sys2Proof

/-! ### The classes of words -/

theorem guardReserved_eq (ok : Bool) (j : Instr) :
    guardReserved ok j = if ok = true then .instr j else .malformed .reservedNonzero := rfl

/-- A word of a known opcode decodes to an instruction or has a reserved bit set (R47). -/
theorem decode_of_opcode_lt {w : IWord} (h : opcodeField w < 22) :
    (∃ i, decode w = .instr i) ∨ decode w = .malformed .reservedNonzero := by
  have hguard (ok : Bool) (j : Instr) :
      (∃ i, guardReserved ok j = .instr i) ∨ guardReserved ok j = .malformed .reservedNonzero := by
    cases ok
    · exact .inr rfl
    · exact .inl ⟨j, rfl⟩
  rw [decode]
  generalize opcodeField w = k at h
  interval_cases k <;> exact hguard _ _

theorem decode_of_opcode_ge {w : IWord} (h : 22 ≤ opcodeField w) : decode w = .unknown := by
  have hlt : opcodeField w < 32 := (w.extractLsb' 0 5).isLt
  rw [decode]
  generalize opcodeField w = k at h hlt
  interval_cases k <;> rfl

/-- All a word can decode to. -/
theorem decode_cases (w : IWord) :
    decode w = .unknown ∨ decode w = .malformed .reservedNonzero ∨ ∃ i, decode w = .instr i := by
  rcases Nat.lt_or_ge (opcodeField w) 22 with h | h
  · exact (decode_of_opcode_lt h).elim (fun h => .inr (.inr h)) fun h => .inr (.inl h)
  · exact .inl (decode_of_opcode_ge h)

/-- Of the words of opcode 0 only the zero word is END: it is the encoding of END. -/
theorem decode_of_opcode_zero {w : IWord} (h : opcodeField w = 0) :
    decode w = if w = 0 then .instr .endProg else .malformed .reservedNonzero := by
  have hdecode : decode w = guardReserved (reservedZero w 0 && dstFieldsZero w) .endProg := by
    rw [decode, h]
    rfl
  split
  case isTrue hw =>
    rw [hw]
    exact decodeReadsBackEncode .endProg
  case isFalse hw =>
    rw [hdecode, guardReserved_eq, if_neg]
    intro hok
    rw [guardReserved_eq, if_pos hok] at hdecode
    exact hw (encodeReadsBackDecode w .endProg hdecode).symm

end Sys2Proof

namespace Sys2Proof.Machine

/-! ### The causes of words (R49, R197) -/

theorem wordCause_of_unknown {w : IWord} (c : Config) (h : decode w = .unknown) : wordCause c w = .unknownOpcode := by
  rw [wordCause, h]

theorem wordCause_of_malformed {w : IWord} {k : FaultCause} (c : Config) (h : decode w = .malformed k) :
    wordCause c w = k := by
  rw [wordCause, h]

theorem wordCause_of_instr {w : IWord} {i : Instr} (c : Config) (h : decode w = .instr i) :
    wordCause c w = staticCheck c i := by
  rw [wordCause, h]

theorem checkDst_ne_unknown (c : Config) (d : DstOperand) : checkDst c d ≠ .unknownOpcode := by
  unfold checkDst
  repeat' split
  all_goals simp

theorem checkSrc_ne_unknown (c : Config) (o : SrcOperand) : checkSrc c o ≠ .unknownOpcode := by
  unfold checkSrc
  repeat' split
  all_goals simp

theorem firstCause_mem : ∀ l : List FaultCause, firstCause l = .none ∨ firstCause l ∈ l
  | [] => .inl rfl
  | c :: l => by
    have ih := firstCause_mem l
    cases c
    case none => simpa [firstCause] using ih
    all_goals simp [firstCause]

theorem checkOperands_eq (c : Config) (d : Option DstOperand) (l : List SrcOperand) :
    checkOperands c d l = firstCause (d.toList.map (checkDst c) ++ l.map (checkSrc c)) := by
  cases d <;> rfl

/-- The static checks find no unknown opcode. -/
theorem staticCheck_ne_unknown (c : Config) (i : Instr) : staticCheck c i ≠ .unknownOpcode := by
  intro h
  rw [staticCheck, checkOperands_eq] at h
  rcases firstCause_mem (i.dst?.toList.map (checkDst c) ++ i.srcs.map (checkSrc c)) with hnone | hmem
  · exact absurd (h.symm.trans hnone) (by decide)
  · rw [h, List.mem_append, List.mem_map, List.mem_map] at hmem
    rcases hmem with ⟨d, _, hd⟩ | ⟨o, _, ho⟩
    · exact checkDst_ne_unknown c d hd
    · exact checkSrc_ne_unknown c o ho

theorem two_le_causeCode {k : FaultCause} (h0 : k ≠ .none) (h1 : k ≠ .unknownOpcode) : 2 ≤ causeCode k := by
  cases k <;> simp_all [causeCode]

/-! ### One dispatcher step (R60) -/

theorem dispatcherStep_of_end {s : State} (h : s.progLen ≤ s.ip) :
    dispatcherStep s = .next { s with status := .halted } := by rw [dispatcherStep, if_pos h]

theorem dispatcherStep_of_fetch {s : State} (h : s.ip < s.progLen) :
    dispatcherStep s = executeDecoded (decode (fetchWord s)) s := by rw [dispatcherStep, if_neg (not_le.2 h)]

/-- What running the fetched word does, by the cause the checks find in it: a legal instruction has its effect, an
unknown opcode faults, and every other cause is left to the policy. -/
theorem executeDecoded_cases (s : State) (w : IWord) :
    (wordCause s.cfg w = .none ∧
      ∃ i, decode w = .instr i ∧ i.wf s.cfg = true ∧ executeDecoded (decode w) s = .next (effectOf i s)) ∨
    (wordCause s.cfg w = .unknownOpcode ∧ executeDecoded (decode w) s = .next (raiseFault .unknownOpcode s)) ∨
    (2 ≤ causeCode (wordCause s.cfg w) ∧ executeDecoded (decode w) s = .next (malformed (wordCause s.cfg w) s)) := by
  rcases decode_cases w with h | h | ⟨i, h⟩
  · rw [wordCause_of_unknown _ h, h]
    exact .inr (.inl ⟨rfl, rfl⟩)
  · rw [wordCause_of_malformed _ h, h]
    exact .inr (.inr ⟨by decide, rfl⟩)
  · rw [wordCause_of_instr _ h, h, executeDecoded, exec_eq]
    by_cases hlegal : staticCheck s.cfg i = .none
    · exact .inl ⟨hlegal, i, rfl, (staticCheck_eq_none _ _).1 hlegal, by rw [if_pos hlegal]⟩
    · exact .inr (.inr ⟨two_le_causeCode hlegal (staticCheck_ne_unknown _ _), by rw [if_neg hlegal]⟩)

/-- What a legal instruction can make of the state: a register write, a write of `AR`, or a halt. -/
theorem effectOf_cases (i : Instr) (s : State) :
    (∃ d, i.dst? = some d ∧ effectOf i s = writeResult d (resultOf i s) s) ∨
    (∃ t, i = .arl t ∧ effectOf i s = writeAr (arlValue s (fetchVector1 s t)) s) ∨
    (i = .endProg ∧ effectOf i s = { s with status := .halted }) := by
  cases i
  case arl t => exact .inr (.inl ⟨t, rfl, rfl⟩)
  case endProg => exact .inr (.inr ⟨rfl, rfl⟩)
  all_goals exact .inl ⟨_, rfl, rfl⟩

/-- All a dispatcher step can make of the state. -/
theorem dispatcherStep_effects (s : State) : ∃ t, dispatcherStep s = .next t ∧
    (t = { s with status := .halted } ∨
      (s.ip < s.progLen ∧
        ((∃ c, c = wordCause s.cfg (fetchWord s) ∧ c ≠ .none ∧
            (c = .unknownOpcode ∨ s.cfg.malformedPolicy = .fault) ∧ t = raiseFault c s) ∨
          t = s.advance ∨
          (∃ i d, i.wf s.cfg = true ∧ i.dst? = some d ∧ t = writeResult d (resultOf i s) s) ∨
          (∃ o, (Instr.arl o).wf s.cfg = true ∧ t = writeAr (arlValue s (fetchVector1 s o)) s)))) := by
  rcases Nat.lt_or_ge s.ip s.progLen with hip | hip
  swap
  · exact ⟨_, dispatcherStep_of_end hip, .inl rfl⟩
  rw [dispatcherStep_of_fetch hip]
  rcases executeDecoded_cases s (fetchWord s) with ⟨_, i, _, hwf, hrun⟩ | ⟨hcause, hrun⟩ | ⟨hcause, hrun⟩
  · refine ⟨_, hrun, ?_⟩
    rcases effectOf_cases i s with ⟨d, hd, heff⟩ | ⟨o, rfl, heff⟩ | ⟨_, heff⟩
    · exact .inr ⟨hip, .inr (.inr (.inl ⟨i, d, hwf, hd, heff⟩))⟩
    · exact .inr ⟨hip, .inr (.inr (.inr ⟨o, hwf, heff⟩))⟩
    · exact .inl heff
  · exact ⟨_, hrun, .inr ⟨hip, .inl ⟨_, hcause.symm, by decide, .inl rfl, rfl⟩⟩⟩
  · refine ⟨_, hrun, .inr ⟨hip, ?_⟩⟩
    rcases malformed_cases (wordCause s.cfg (fetchWord s)) s with ⟨hpolicy, heff⟩ | ⟨_, heff⟩
    · refine .inl ⟨_, rfl, ?_, .inr hpolicy, heff⟩
      intro hnone
      rw [hnone] at hcause
      exact absurd hcause (by decide)
    · exact .inr (.inl heff)

/-! ### Steps at which the host is silent -/

/-- With the host silent, a step while RUNNING is the dispatcher's. -/
theorem step_of_silent {s : State} (hrun : s.status = .running) (hsilent : s.hostSilent) :
    step s = dispatcherStep s.dropMove := by
  have hstep : machineStep s = silentStep s := by
    rw [machineStep]
    split
    case h_1 c l hp => exact absurd (by rw [hp]; rfl) (hsilent c)
    case h_2 => rfl
  rw [step, hstep, silentStep, hrun]

theorem step_of_fetches {s : State} (h : s.fetches) :
    step s = executeDecoded (decode (fetchWord s)) s.dropMove := by
  obtain ⟨hrun, hsilent, hip⟩ := h
  rw [step_of_silent hrun hsilent]
  exact dispatcherStep_of_fetch hip

/-! ### The obligations -/

/-- Settles O6: such a step runs what the fetched word decodes to, by `step_of_fetches`. -/
theorem stepRunsDecodedInstruction : Obligations.StepRunsDecodedInstruction := by
  intro s i hfetch hdecode
  rw [step_of_fetches hfetch, hdecode, executeDecoded]

theorem withFetchWord_eq (s : State) (w : IWord) : s.withFetchWord 128 w.toNat = placeWord s w := by
  rw [State.withFetchWord, Nat.mod_eq_of_lt w.isLt, BitVec.ofNat_toNat, BitVec.setWidth_eq]

/-- The placed state is about to fetch the placed word. -/
theorem placeWord_fetches (s : State) (w : IWord) : (placeWord s w).fetches :=
  ⟨rfl, fun c => by simp, by simp⟩

theorem fetchWord_placeWord {s : State} (h : s.imem.wf = true) (w : IWord) : fetchWord (placeWord s w) = w := by
  rw [fetchWord, placeWord_imem, placeWord_ip, Memory.read_write h, if_pos rfl]

/-- Settles O7: the placed state fetches the placed word, and has no host move to take off the list. -/
theorem placedWordRunsNext : Obligations.PlacedWordRunsNext := by
  intro s w i hstore hdecode
  rw [withFetchWord_eq]
  exact stepRunsDecodedInstruction _ i (placeWord_fetches s w) (by rwa [fetchWord_placeWord hstore])

/-- Settles O8: with the host silent the step is the dispatcher's, whose first test is the end of the list. -/
theorem endOfListHalts : Obligations.EndOfListHalts := by
  intro s hrun hsilent hend
  rw [step_of_silent hrun hsilent]
  exact dispatcherStep_of_end hend

/-- Settles O9: the words of opcode 0 by `decode_of_opcode_zero`; the step is END's by O6. -/
theorem endInstructionHalts : Obligations.EndInstructionHalts := by
  refine ⟨rfl, fun w => decode_of_opcode_zero, fun s => rfl, fun s hfetch hzero => ?_⟩
  have hend : decode (fetchWord s) = .instr .endProg := by
    rw [hzero]
    exact decodeReadsBackEncode .endProg
  exact stepRunsDecodedInstruction s .endProg hfetch hend

/-! ### Rest (R60, R193) -/

theorem dispatcherStep_next (s : State) : ∃ t, dispatcherStep s = .next t :=
  (dispatcherStep_effects s).imp fun _ h => h.1

/-- A step that is not the host's. -/
theorem step_eq_silentStep {s : State} (h : ∀ c l, s.pending ≠ .issue c :: l) : step s = silentStep s := by
  rw [step, machineStep]
  split
  case h_1 c l hp => exact absurd hp (h c l)
  case h_2 => rfl

/-- A step answers a next state, or the machine is at rest: not RUNNING, and the host has no move left. -/
theorem step_next_or_rest (s : State) :
    (∃ t, step s = .next t) ∨
      (s.pending = [] ∧ (s.status = .halted ∧ step s = .fault .restHalted ∨
        s.status = .faulted ∧ step s = .fault (.restFaulted s.faultCause))) := by
  by_cases hissue : ∃ c l, s.pending = .issue c :: l
  · obtain ⟨c, l, hp⟩ := hissue
    exact .inl ⟨_, step_issue hp⟩
  · push Not at hissue
    rw [step_eq_silentStep hissue, silentStep]
    by_cases hempty : s.pending = [] <;> cases hstatus : s.status <;> simp [hempty, dispatcherStep_next]

/-- Settles O11: everything but rest answers a next state, by `step_next_or_rest`. -/
theorem stopsOnlyAtRest : Obligations.StopsOnlyAtRest := by
  refine ⟨fun s f hfault => ?_, fun s r hrefused => ?_, fun s l hstop hpending => ?_, fun s hpending => ?_⟩
  · rcases step_next_or_rest s with ⟨t, ht⟩ | ⟨hp, ⟨hs, _⟩ | ⟨hs, _⟩⟩
    · rw [ht] at hfault
      cases hfault
    · exact ⟨by rw [hs]; decide, hp⟩
    · exact ⟨by rw [hs]; decide, hp⟩
  · rcases step_next_or_rest s with ⟨t, ht⟩ | ⟨_, ⟨_, ht⟩ | ⟨_, ht⟩⟩ <;> rw [ht] at hrefused <;> cases hrefused
  · rw [step_eq_silentStep (by simp [hpending]), silentStep, ← State.dropMove_eq hpending]
    cases hstatus : s.status with
    | running => exact absurd hstatus hstop
    | halted => simp [hpending]
    | faulted => simp [hpending]
  · rw [step_eq_silentStep (by simp [hpending]), silentStep]
    exact ⟨fun h => by rw [h]; exact if_pos hpending, fun h => by rw [h]; exact if_pos hpending⟩

end Sys2Proof.Machine
end

section
/-! PROOFS. STATUS, the end of runs, and the taking of faults (10_state.md R18, 40_execution_model.md R63,
60_exceptions.md R191 to R199). -/

namespace Sys2Proof.Machine

/-! ### The order of the checks of a word (R49, R197) -/

theorem firstCause_cons_of_ne {k : FaultCause} (l : List FaultCause) (h : k ≠ .none) : firstCause (k :: l) = k := by
  cases k
  case none => exact absurd rfl h
  all_goals rfl

theorem firstCause_append_of_none {l l' : List FaultCause} (h : ∀ k ∈ l, k = .none) :
    firstCause (l ++ l') = firstCause l' := by
  induction l with
  | nil => rfl
  | cons k l ih =>
    obtain rfl := h k List.mem_cons_self
    exact ih fun x hx => h x (List.mem_cons_of_mem _ hx)

/-- The first operand that fails a check gives the cause: the destination. -/
theorem staticCheck_of_dst {c : Config} {i : Instr} {d : DstOperand} (hd : i.dst? = some d)
    (hbad : checkDst c d ≠ .none) : staticCheck c i = checkDst c d := by
  rw [staticCheck, checkOperands_eq, hd]
  exact firstCause_cons_of_ne _ hbad

/-- The first operand that fails a check gives the cause: a source after legal operands. -/
theorem staticCheck_of_src {c : Config} {i : Instr} {l l' : List SrcOperand} {o : SrcOperand}
    (hd : ∀ d ∈ i.dst?, d.wf c = true) (hs : i.srcs = l ++ o :: l') (hl : ∀ x ∈ l, x.wf c = true)
    (hbad : checkSrc c o ≠ .none) : staticCheck c i = checkSrc c o := by
  have hdst : ∀ k ∈ i.dst?.toList.map (checkDst c), k = .none := by
    intro k hk
    obtain ⟨d, hmem, rfl⟩ := List.mem_map.1 hk
    exact (checkDst_eq_none c d).2 (hd d (Option.mem_toList.1 hmem))
  have hsrc : ∀ k ∈ l.map (checkSrc c), k = .none := by
    intro k hk
    obtain ⟨x, hmem, rfl⟩ := List.mem_map.1 hk
    exact (checkSrc_eq_none c x).2 (hl x hmem)
  rw [staticCheck, checkOperands_eq, hs, firstCause_append_of_none hdst, List.map_append,
    firstCause_append_of_none hsrc, List.map_cons, firstCause_cons_of_ne _ hbad]

theorem checkDst_of_readOnly {c : Config} {d : DstOperand} (h : d.region = .input ∨ d.region = .parameter) :
    checkDst c d = .destRegion := by
  rcases h with h | h <;> rw [checkDst, h]

theorem checkDst_of_index {c : Config} {d : DstOperand} (h : d.region = .output ∨ d.region = .temporary)
    (hi : c.regionSize d.region ≤ d.index.toNat) : checkDst c d = .destIndex := by
  rcases h with h | h <;> rw [h] at hi <;> rw [checkDst, h] <;> exact if_pos hi

theorem checkSrc_of_output {c : Config} {o : SrcOperand} (h : o.region = .output) : checkSrc c o = .srcRegion := by
  rw [checkSrc, if_pos h]

theorem checkSrc_of_rel {c : Config} {o : SrcOperand} (h : o.region ≠ .output) (hrel : o.rel = true)
    (hp : o.region ≠ .parameter) : checkSrc c o = .srcRelRegion := by
  rw [checkSrc, if_neg h, if_pos ⟨hrel, hp⟩]

theorem checkSrc_of_index {c : Config} {o : SrcOperand} (h : o.region ≠ .output) (hrel : o.rel = false)
    (hi : c.regionSize o.region ≤ o.index.toNat) : checkSrc c o = .srcIndex := by
  rw [checkSrc, if_neg h, if_neg (by simp [hrel]), if_pos ⟨hrel, hi⟩]

/-- Settles O17: the end-of-list test comes before the fetch, the opcode before the other fields, and the operands'
checks in the order of `firstCause`. -/
theorem faultCausePriority : Obligations.FaultCausePriority := by
  refine ⟨fun s t hrun hsilent hend hstep => ?_, fun c w hop => ?_, fun c w hop hno => ?_,
    fun c w i d hdecode hd => ?_, fun c w i l l' o hdecode hd hs hl => ?_, fun c w i hdecode => ?_⟩
  · rw [endOfListHalts s hrun hsilent hend] at hstep
    cases hstep
    exact ⟨by simp, rfl⟩
  · exact wordCause_of_unknown c (decode_of_opcode_ge hop)
  · rcases decode_of_opcode_lt (Nat.lt_succ_of_le hop) with ⟨i, hi⟩ | h
    · exact absurd hi (hno i)
    · exact wordCause_of_malformed c h
  · rw [wordCause_of_instr c hdecode]
    refine ⟨fun h => ?_, fun h hi => ?_⟩
    · rw [staticCheck_of_dst hd] <;> simp [checkDst_of_readOnly h]
    · rw [staticCheck_of_dst hd] <;> simp [checkDst_of_index h hi]
  · rw [wordCause_of_instr c hdecode]
    refine ⟨fun h => ?_, fun h hrel hp => ?_, fun h hrel hi => ?_⟩
    · rw [staticCheck_of_src hd hs hl] <;> simp [checkSrc_of_output h]
    · rw [staticCheck_of_src hd hs hl] <;> simp [checkSrc_of_rel h hrel hp]
    · rw [staticCheck_of_src hd hs hl] <;> simp [checkSrc_of_index h hrel hi]
  · rw [wordCause_of_instr c hdecode]
    exact staticCheck_eq_none c i

/-! ### Drawn values (R5, R192) -/

theorem compFits_fit (fl : Flen) (x : Comp) : compFits fl (Comp.fit fl x) = true := by
  have hlt : x.toNat % 2 ^ fl.bits < 2 ^ fl.bits := Nat.mod_lt _ (by positivity)
  have hbits : 2 ^ fl.bits ≤ 2 ^ 64 := by cases fl <;> decide
  rw [compFits, Comp.fit, BitVec.toNat_ofNat, Nat.mod_eq_of_lt (hlt.trans_le hbits)]
  exact decide_eq_true hlt

theorem vecFits_fit (fl : Flen) (v : Vec4) : vecFits fl (v.fit fl) = true := by
  simp only [vecFits, Vec4.fit, compFits_fit, Bool.and_self]

theorem vecFits_drawVec (fl : Flen) (n : Nat) : vecFits fl (drawVec fl n) = true := by
  simp only [vecFits, drawVec, drawComp, compFits_fit, Bool.and_self]

@[simp] theorem drawRegs_length (fl : Flen) (n k : Nat) : (drawRegs fl n k).length = k := by simp [drawRegs]

theorem drawRegs_fit (fl : Flen) (n k : Nat) : (drawRegs fl n k).all (vecFits fl) = true := by
  simp [drawRegs, vecFits_drawVec]

/-- A drawn value of `AR` is in range. -/
theorem drawAr_inRange (w n : Nat) : inArRange w (drawAr w n) = true := by
  have hpos : 0 < 2 ^ w := by positivity
  have hlo := Int.le_bmod (x := Config.drawInt n) hpos
  have hhi := Int.bmod_lt (x := Config.drawInt n) hpos
  rw [inArRange, drawAr, decide_eq_true_eq]
  cases w with
  | zero => norm_num at hlo hhi ⊢
  | succ m =>
    push_cast [pow_succ] at hlo hhi ⊢
    omega

/-! ### The three ways a fetched word can go (R60, R192, R196) -/

section Fetched

variable {s t : State}

theorem step_of_legal (h : s.fetches) (hc : wordCause s.cfg (fetchWord s) = .none) :
    ∃ i, decode (fetchWord s) = .instr i ∧ i.wf s.cfg = true ∧ step s = .next (effectOf i s.dropMove) := by
  rw [step_of_fetches h]
  rcases executeDecoded_cases s.dropMove (fetchWord s) with ⟨_, hrun⟩ | ⟨hcause, _⟩ | ⟨hcause, _⟩
  · exact hrun
  · exact absurd (hc.symm.trans hcause) (by decide)
  · rw [State.dropMove_cfg, hc] at hcause
    exact absurd hcause (by decide)

theorem step_of_fault (h : s.fetches) (hc : wordCause s.cfg (fetchWord s) ≠ .none)
    (hp : wordCause s.cfg (fetchWord s) = .unknownOpcode ∨ s.cfg.malformedPolicy = .fault) :
    step s = .next (raiseFault (wordCause s.cfg (fetchWord s)) s.dropMove) := by
  rw [step_of_fetches h]
  rcases executeDecoded_cases s.dropMove (fetchWord s) with ⟨hcause, _⟩ | ⟨hcause, hrun⟩ | ⟨hcause, hrun⟩
  · exact absurd hcause hc
  · rw [State.dropMove_cfg] at hcause
    rw [hcause, hrun]
  · rw [State.dropMove_cfg] at hcause
    have hpolicy : s.cfg.malformedPolicy = .fault := hp.resolve_left fun hu => by
      rw [hu] at hcause
      exact absurd hcause (by decide)
    rw [hrun, malformed, State.dropMove_cfg, hpolicy]

theorem step_of_skip (h : s.fetches) (hc : 2 ≤ causeCode (wordCause s.cfg (fetchWord s)))
    (hp : s.cfg.malformedPolicy = .nop) : step s = .next s.dropMove.advance := by
  rw [step_of_fetches h]
  rcases executeDecoded_cases s.dropMove (fetchWord s) with ⟨hcause, _⟩ | ⟨hcause, _⟩ | ⟨_, hrun⟩
  · rw [State.dropMove_cfg] at hcause
    rw [hcause] at hc
    exact absurd hc (by decide)
  · rw [State.dropMove_cfg] at hcause
    rw [hcause] at hc
    exact absurd hc (by decide)
  · rw [hrun, malformed, State.dropMove_cfg, hp]

theorem causeCode_pos {k : FaultCause} (h : 2 ≤ causeCode k) : k ≠ .none := by
  rintro rfl
  exact absurd h (by decide)

/-- Settles O18: the step is `raiseFault`, whose drawn registers keep their shape. -/
theorem faultEntryRecordsAndProtects : Obligations.FaultEntryRecordsAndProtects := by
  intro s hfetch hcause hpolicy
  refine ⟨_, step_of_fault hfetch hcause hpolicy, rfl, rfl, rfl, rfl, ⟨rfl, rfl, rfl, rfl, rfl⟩, rfl, rfl,
    drawRegs_length _ _ _, drawRegs_length _ _ _, drawRegs_fit _ _ _, drawRegs_fit _ _ _, drawAr_inRange _ _⟩

/-- Settles O19: the two policies are `step_of_fault` and `step_of_skip`. -/
theorem malformedPolicyDecides : Obligations.MalformedPolicyDecides :=
  ⟨rfl, fun _ hfetch hcause => ⟨fun hp => step_of_fault hfetch (causeCode_pos hcause) (.inr hp),
    fun hp => step_of_skip hfetch hcause hp⟩⟩

theorem effectOf_status (i : Instr) (s : State) :
    (effectOf i s).status = s.status ∨ (effectOf i s).status = .halted := by
  rcases effectOf_cases i s with ⟨d, _, heff⟩ | ⟨o, _, heff⟩ | ⟨_, heff⟩ <;> rw [heff]
  · exact .inl (writeResult_status _ _ _)
  · exact .inl (writeAr_status _ _)
  · exact .inr rfl

/-- A fetched word faults by its cause and the policy alone, and then records this cause and the index. -/
theorem faulted_iff_of_fetches (h : s.fetches) (hstep : step s = .next t) :
    (t.status = .faulted ↔ wordCause s.cfg (fetchWord s) ≠ .none ∧
      (wordCause s.cfg (fetchWord s) = .unknownOpcode ∨ s.cfg.malformedPolicy = .fault)) ∧
    (t.status = .faulted → t.faultCause = wordCause s.cfg (fetchWord s) ∧ t.faultIp = s.ip) := by
  by_cases hc : wordCause s.cfg (fetchWord s) = .none
  · obtain ⟨i, _, _, hrun⟩ := step_of_legal h hc
    obtain rfl := Host.Outcome.next.inj (hrun.symm.trans hstep)
    have hne : (effectOf i s.dropMove).status ≠ .faulted := by
      rcases effectOf_status i s.dropMove with hs | hs
      · rw [hs, State.dropMove_status, h.1]; decide
      · rw [hs]; decide
    exact ⟨⟨fun hf => absurd hf hne, fun hf => absurd hc hf.1⟩, fun hf => absurd hf hne⟩
  by_cases hp : wordCause s.cfg (fetchWord s) = .unknownOpcode ∨ s.cfg.malformedPolicy = .fault
  · obtain rfl := Host.Outcome.next.inj ((step_of_fault h hc hp).symm.trans hstep)
    exact ⟨⟨fun _ => ⟨hc, hp⟩, fun _ => rfl⟩, fun _ => ⟨rfl, rfl⟩⟩
  · push Not at hp
    have hnop : s.cfg.malformedPolicy = .nop := by
      cases hq : s.cfg.malformedPolicy
      · exact absurd hq hp.2
      · rfl
    obtain rfl := Host.Outcome.next.inj ((step_of_skip h (two_le_causeCode hc hp.1) hnop).symm.trans hstep)
    have hne : s.dropMove.advance.status ≠ .faulted := by simp [h.1]
    exact ⟨⟨fun hf => absurd hf hne, fun hf => absurd hf.2 (not_or.2 hp)⟩, fun hf => absurd hf hne⟩

end Fetched

/-- Settles O20: `faulted_iff_of_fetches` speaks of the word, the configuration and `ip` only. -/
theorem faultDependsOnlyOnWord : Obligations.FaultDependsOnlyOnWord := by
  intro s s' t t' hs hs' hcfg hip hword hstep hstep'
  obtain ⟨hiff, hrec⟩ := faulted_iff_of_fetches hs hstep
  obtain ⟨hiff', hrec'⟩ := faulted_iff_of_fetches hs' hstep'
  rw [hcfg, hword] at hiff' hrec'
  refine ⟨hiff.trans hiff'.symm, fun hf => ?_⟩
  obtain ⟨hcause, hindex⟩ := hrec hf
  obtain ⟨hcause', hindex'⟩ := hrec' (hiff'.2 (hiff.1 hf))
  exact ⟨hcause'.trans hcause.symm, by rw [hindex', hindex, hip]⟩

/-! ### What a dispatcher step leaves (R35, R200) -/

theorem writeResult_lengths (s : State) (d : DstOperand) (v : Vec4) :
    (writeResult d v s).output.length = s.output.length ∧
      (writeResult d v s).temporary.length = s.temporary.length :=
  ⟨storeVector4_region_length s d v .output, storeVector4_region_length s d v .temporary⟩

/-- No dispatcher step changes the protected storage. -/
theorem dispatcherStep_sameProtected {s t : State} (h : dispatcherStep s = .next t) : s.sameProtected t := by
  obtain ⟨t', ht', heff⟩ := dispatcherStep_effects s
  obtain rfl := Host.Outcome.next.inj (ht'.symm.trans h)
  rcases heff with rfl | ⟨_, ⟨c, _, _, _, rfl⟩ | rfl | ⟨i, d, hwf, hd, rfl⟩ | ⟨o, _, rfl⟩⟩
  case inr.inr.inr.inl =>
    obtain ⟨hregion, _⟩ := (dstOperand_wf_iff _ _).1 (dst_wf_of_instr_wf hwf hd)
    obtain ⟨hinput, hparameter⟩ := storeVector4_readOnly s d (resultOf i s) hregion
    exact ⟨writeResult_cfg _ _ _, hinput, hparameter, writeResult_imem _ _ _, writeResult_progLen _ _ _⟩
  all_goals exact ⟨rfl, rfl, rfl, rfl, rfl⟩

/-- A dispatcher step leaves the numbers of Output and Temporary registers the configuration gives. -/
theorem dispatcherStep_lengths {s t : State} (ho : s.output.length = s.cfg.numOut)
    (ht : s.temporary.length = s.cfg.numTmp) (h : dispatcherStep s = .next t) :
    t.output.length = s.output.length ∧ t.temporary.length = s.temporary.length := by
  obtain ⟨t', ht', heff⟩ := dispatcherStep_effects s
  obtain rfl := Host.Outcome.next.inj (ht'.symm.trans h)
  rcases heff with rfl | ⟨_, ⟨c, _, _, _, rfl⟩ | rfl | ⟨i, d, _, _, rfl⟩ | ⟨o, _, rfl⟩⟩
  case inr.inl => exact ⟨(drawRegs_length _ _ _).trans ho.symm, (drawRegs_length _ _ _).trans ht.symm⟩
  case inr.inr.inr.inl => exact writeResult_lengths s d _
  all_goals exact ⟨rfl, rfl⟩

/-- Settles O15: the frame of `dispatcherStep_effects`, effect by effect. -/
theorem dispatcherKeepsProtectedStorage : Obligations.DispatcherKeepsProtectedStorage := by
  intro s t _ hregs hrun hsilent hstep
  rw [step_of_silent hrun hsilent] at hstep
  have hprotected := dispatcherStep_sameProtected hstep
  obtain ⟨_, _, _, himem, _⟩ := id hprotected
  exact ⟨hprotected, fun a => by rw [himem]; rfl,
    dispatcherStep_lengths (s := s.dropMove) (State.region_length hregs .output)
      (State.region_length hregs .temporary) hstep⟩

/-! ### The end of a run (R63, R223) -/

/-- A dispatcher step from RUNNING halts, faults with a record, or goes on to the next index of the same program. -/
theorem dispatcherStep_control {s : State} (hrun : s.status = .running) : ∃ t, dispatcherStep s = .next t ∧
    t.pending = s.pending ∧ t.progLen = s.progLen ∧
    (t.status = .halted ∨ t.failed ∧ s.ip < s.progLen ∨ t.status = .running ∧ t.ip = s.ip + 1 ∧ s.ip < s.progLen) := by
  obtain ⟨t, ht, heff⟩ := dispatcherStep_effects s
  refine ⟨t, ht, ?_⟩
  rcases heff with rfl | ⟨hip, ⟨c, _, hc, _, rfl⟩ | rfl | ⟨i, d, _, _, rfl⟩ | ⟨o, _, rfl⟩⟩
  · exact ⟨rfl, rfl, .inl rfl⟩
  · exact ⟨rfl, rfl, .inr (.inl ⟨⟨rfl, hc, rfl⟩, hip⟩)⟩
  · exact ⟨rfl, rfl, .inr (.inr ⟨hrun, rfl, hip⟩)⟩
  · exact ⟨writeResult_pending _ _ _, writeResult_progLen _ _ _,
      .inr (.inr ⟨(writeResult_status _ _ _).trans hrun, writeResult_ip _ _ _, hip⟩)⟩
  · exact ⟨rfl, rfl, .inr (.inr ⟨hrun, rfl, hip⟩)⟩

theorem hostSilent_of_hostQuiet {s : State} (h : s.hostQuiet) : s.hostSilent :=
  fun c hc => h c (List.mem_of_mem_head? hc)

theorem dropMove_hostQuiet {s : State} (h : s.hostQuiet) : s.dropMove.hostQuiet :=
  fun c hc => h c (List.mem_of_mem_tail hc)

theorem coreRun_succ_of_next {M : Host.Core} {s t : M.State} (k : Nat) (h : M.step s = .next t) :
    M.run (k + 1) s = M.run k t := by
  rw [Host.Core.run, h]

theorem run_succ_of_next {s t : State} (k : Nat) (h : step s = .next t) :
    Host.Core.run Sys2Proof.core (k + 1) s = Host.Core.run Sys2Proof.core k t :=
  coreRun_succ_of_next (M := Sys2Proof.core) k h

/-- By induction on the number of words left: a step ends the run, or leaves one word less. -/
theorem run_ends : ∀ (n : Nat) (s : State), s.progLen - s.ip = n → s.status = .running → s.hostQuiet →
    ∃ k ≤ n + 1, ∃ t, Host.Core.run Sys2Proof.core k s = .next t ∧ (t.status = .halted ∨ t.failed) := by
  intro n
  induction n with
  | zero =>
    intro s hn hrun hquiet
    have hstep := endOfListHalts s hrun (hostSilent_of_hostQuiet hquiet) (by omega)
    exact ⟨1, le_rfl, _, (run_succ_of_next 0 hstep).trans rfl, .inl rfl⟩
  | succ n ih =>
    intro s hn hrun hquiet
    obtain ⟨t, ht, hpending, hlen, hcases⟩ := dispatcherStep_control (s := s.dropMove) hrun
    have hstep : step s = .next t := (step_of_silent hrun (hostSilent_of_hostQuiet hquiet)).trans ht
    rcases hcases with hhalt | ⟨hfail, _⟩ | ⟨hrun', hip, _⟩
    · exact ⟨1, by omega, t, run_succ_of_next 0 hstep, .inl hhalt⟩
    · exact ⟨1, by omega, t, run_succ_of_next 0 hstep, .inr hfail⟩
    · have hquiet' : t.hostQuiet := fun c hc => dropMove_hostQuiet hquiet c (hpending ▸ hc)
      rw [State.dropMove_progLen] at hlen
      rw [State.dropMove_ip] at hip
      obtain ⟨k, hk, u, hu, hend⟩ := ih t (by omega) hrun' hquiet'
      exact ⟨k + 1, by omega, u, (run_succ_of_next k hstep).trans hu, hend⟩

/-- Settles O10: one step by `dispatcherStep_control`, the run by `run_ends`. -/
theorem runTerminates : Obligations.RunTerminates := by
  refine ⟨fun s hrun hsilent => ?_, fun s hrun hquiet => ?_⟩
  · obtain ⟨t, ht, _, _, hcases⟩ := dispatcherStep_control (s := s.dropMove) hrun
    refine ⟨t, (step_of_silent hrun hsilent).trans ht, ?_, fun hend => ?_⟩
    · rcases hcases with hhalt | ⟨⟨hfault, _⟩, _⟩ | ⟨hrun', hip, _⟩
      · exact .inl hhalt
      · exact .inr (.inl hfault)
      · exact .inr (.inr ⟨hrun', hip⟩)
    · rcases hcases with hhalt | ⟨_, hip⟩ | ⟨_, _, hip⟩
      · exact hhalt
      · exact absurd hip (not_lt.2 hend)
      · exact absurd hip (not_lt.2 hend)
  · obtain ⟨k, hk, t, ht, hend⟩ := run_ends _ s rfl hrun hquiet
    exact ⟨k, hk, t, ht, hend.imp_right fun hfail => hfail.1, hend⟩

/-! ### STATUS and FAULT_CAUSE over all steps (R18, R191) -/

/-- What a command does to the configuration, STATUS and FAULT_CAUSE: only RESET and RUN write them. -/
theorem hostCommand_control (c : HostCommand) (s : State) : (hostCommand c s).cfg = s.cfg ∧
    ((c = .reset ∧ (hostCommand c s).status = .halted ∧ (hostCommand c s).faultCause = .none) ∨
      (s.status ≠ .running ∧ c = .run ∧ (hostCommand c s).status = .running ∧ (hostCommand c s).faultCause = .none) ∨
      ((hostCommand c s).status = s.status ∧ (hostCommand c s).faultCause = s.faultCause)) := by
  by_cases hrun : s.status = .running
  · cases c
    case reset => exact ⟨rfl, .inl ⟨rfl, rfl, rfl⟩⟩
    all_goals
      rw [hostCommand, whenStopped, if_pos hrun]
      exact ⟨rfl, .inr (.inr ⟨rfl, rfl⟩)⟩
  · cases c with
    | reset => exact ⟨rfl, .inl ⟨rfl, rfl, rfl⟩⟩
    | run =>
      rw [hostCommand, whenStopped, if_neg hrun]
      exact ⟨rfl, .inr (.inl ⟨hrun, rfl, rfl, rfl⟩)⟩
    | init a =>
      rw [hostCommand, whenStopped, if_neg hrun]
      exact ⟨rfl, .inr (.inr ⟨rfl, rfl⟩)⟩
    | readStatus =>
      rw [hostCommand, whenStopped, if_neg hrun]
      exact ⟨rfl, .inr (.inr ⟨rfl, rfl⟩)⟩
    | loadProgram ws =>
      rw [hostCommand, whenStopped, if_neg hrun, hostLoadProgram]
      split <;> exact ⟨rfl, .inr (.inr ⟨rfl, rfl⟩)⟩
    | writeParam i v =>
      rw [hostCommand, whenStopped, if_neg hrun, hostWriteParam]
      split <;> exact ⟨rfl, .inr (.inr ⟨rfl, rfl⟩)⟩
    | loadMatrices bs =>
      rw [hostCommand, whenStopped, if_neg hrun, hostLoadMatrices]
      split <;> exact ⟨rfl, .inr (.inr ⟨rfl, rfl⟩)⟩
    | readOutput i =>
      rw [hostCommand, whenStopped, if_neg hrun, hostReadOutput]
      split <;> exact ⟨rfl, .inr (.inr ⟨rfl, rfl⟩)⟩

theorem hostSilent_of_all_silent {s : State} (h : s.pending.head?.all (· = .silent) = true) : s.hostSilent := by
  intro c hc
  rw [hc] at h
  simp at h

/-- Settles O12: by the three kinds of steps. -/
theorem statusTransitions : Obligations.StatusTransitions := by
  refine ⟨⟨rfl, rfl, rfl⟩, fun s t hstep => ?_⟩
  rcases step_cases hstep with ⟨c, rest, hp, rfl⟩ | ⟨hrun, hsilent, hdisp⟩ | ⟨_, _, rfl⟩
  · obtain ⟨_, ⟨rfl, hs, _⟩ | ⟨hstop, rfl, hs, _⟩ | ⟨hs, _⟩⟩ := hostCommand_control c s.dropMove
    · exact .inr (.inl ⟨by rw [hp]; rfl, hs⟩)
    · exact .inr (.inr (.inl ⟨hstop, by rw [hp]; rfl, hs⟩))
    · exact .inl hs
  · obtain ⟨t', ht', _, _, hcases⟩ := dispatcherStep_control (s := s.dropMove) hrun
    obtain rfl := Host.Outcome.next.inj (ht'.symm.trans hdisp)
    rcases hcases with hhalt | ⟨⟨hfault, _⟩, _⟩ | ⟨hrun', _⟩
    · exact .inr (.inr (.inr ⟨hrun, hostSilent_of_all_silent hsilent, .inl hhalt⟩))
    · exact .inr (.inr (.inr ⟨hrun, hostSilent_of_all_silent hsilent, .inr hfault⟩))
    · exact .inl (hrun'.trans hrun.symm)
  · exact .inl rfl

/-- A dispatcher step records no cause, or an unknown opcode, or it faults by policy. -/
theorem dispatcherStep_faultCause {s t : State} (h : dispatcherStep s = .next t) :
    t.faultCause = s.faultCause ∨ t.faultCause = .unknownOpcode ∨ s.cfg.malformedPolicy = .fault := by
  obtain ⟨t', ht', heff⟩ := dispatcherStep_effects s
  obtain rfl := Host.Outcome.next.inj (ht'.symm.trans h)
  rcases heff with rfl | ⟨_, ⟨c, _, _, hc, rfl⟩ | rfl | ⟨i, d, _, _, rfl⟩ | ⟨o, _, rfl⟩⟩
  · exact .inl rfl
  · exact .inr hc
  · exact .inl rfl
  · exact .inl (writeResult_faultCause _ _ _)
  · exact .inl rfl

/-- Settles O16: commands set FAULT_CAUSE to 0 or leave it, and under nop the dispatcher records only cause 1. -/
theorem nopPolicyNeverRecordsMalformed : Obligations.NopPolicyNeverRecordsMalformed := by
  intro s t hnop hcode hstep
  rcases step_cases hstep with ⟨c, rest, _, rfl⟩ | ⟨_, _, hdisp⟩ | ⟨_, _, rfl⟩
  · obtain ⟨hcfg, ⟨_, _, hk⟩ | ⟨_, _, _, hk⟩ | ⟨_, hk⟩⟩ := hostCommand_control c s.dropMove <;> rw [hcfg, hk]
    · exact ⟨hnop, by decide⟩
    · exact ⟨hnop, by decide⟩
    · exact ⟨hnop, hcode⟩
  · obtain ⟨hcfg, _⟩ := dispatcherStep_sameProtected hdisp
    rw [hcfg]
    refine ⟨hnop, ?_⟩
    rcases dispatcherStep_faultCause hdisp with hk | hk | hfault
    · rw [hk]
      exact hcode
    · rw [hk]
      decide
    · exact absurd (hnop.symm.trans hfault) (by decide)
  · exact ⟨hnop, hcode⟩

end Sys2Proof.Machine
end

section
/-! PROOFS. The other host commands, and the state after reset (49_host_commands.md R170 to R179,
70_reset_and_hazards.md R210). -/

namespace Sys2Proof.Machine

/-! ### Well-formed registers and stores, by part -/

/-- What `registersWf` says, part by part. -/
theorem State.registersWf_iff (s : State) : s.registersWf = true ↔
    (∀ r, (s.region r).length = s.cfg.regionSize r ∧ (s.region r).all (vecFits s.cfg.flen) = true) ∧
      inArRange s.cfg.arWidth s.ar = true := by
  simp only [State.registersWf, Bool.and_eq_true, beq_iff_eq]
  constructor
  · rintro ⟨⟨⟨⟨⟨⟨⟨⟨hin, hout⟩, htmp⟩, hpar⟩, hfin⟩, hfout⟩, hftmp⟩, hfpar⟩, har⟩
    refine ⟨fun r => ?_, har⟩
    cases r
    · exact ⟨hin, hfin⟩
    · exact ⟨hout, hfout⟩
    · exact ⟨htmp, hftmp⟩
    · exact ⟨hpar, hfpar⟩
  · rintro ⟨hregion, har⟩
    obtain ⟨hin, hfin⟩ := hregion .input
    obtain ⟨hout, hfout⟩ := hregion .output
    obtain ⟨htmp, hftmp⟩ := hregion .temporary
    obtain ⟨hpar, hfpar⟩ := hregion .parameter
    exact ⟨⟨⟨⟨⟨⟨⟨⟨hin, hout⟩, htmp⟩, hpar⟩, hfin⟩, hfout⟩, hftmp⟩, hfpar⟩, har⟩

theorem State.storeWf_iff (s : State) :
    s.storeWf = true ↔ s.imem.wf = true ∧ ∀ p ∈ s.imem, p.1 < s.cfg.imemSize := by
  simp [State.storeWf]

/-! ### RESET (R171, R210) -/

theorem hostReset_registersWf (s : State) : (hostReset s).registersWf = true := by
  rw [State.registersWf_iff]
  refine ⟨fun r => ?_, drawAr_inRange _ _⟩
  cases r <;> exact ⟨drawRegs_length _ _ _, drawRegs_fit _ _ _⟩

theorem drawWords_length (n k : Nat) : (drawWords n k).length = k := by simp [drawWords]

theorem hostReset_storeWf (s : State) : (hostReset s).storeWf = true := by
  refine (State.storeWf_iff _).2 ⟨Memory.writeFrom_wf rfl _ _, Memory.writeFrom_bounded (by simp) 0 _ ?_⟩
  rw [drawWords_length, Nat.zero_add]
  exact le_rfl

theorem step_reset {s : State} {l : List HostMove} (h : s.pending = .issue .reset :: l) :
    step s = .next (hostReset s.dropMove) := step_issue h

/-- Settles O21: the step is `hostReset`, RUNNING or not. -/
theorem resetCommandTakenInEveryState : Obligations.ResetCommandTakenInEveryState := by
  intro s l hpending
  refine ⟨_, step_reset hpending, rfl, rfl, rfl, rfl, rfl, rfl, ?_, rfl, hostReset_registersWf _,
    hostReset_storeWf _⟩
  rw [State.dropMove_eq hpending]
  rfl

theorem replicate_fits (fl : Flen) (k : Nat) {v : Vec4} (h : vecFits fl v = true) :
    (List.replicate k v).all (vecFits fl) = true := by simp [h]

theorem vecFits_zero (fl : Flen) : vecFits fl ⟨0, 0, 0, 0⟩ = true := by cases fl <;> decide

theorem zero_inArRange (w : Nat) : inArRange w 0 = true := by
  have h : (1 : Int) ≤ 2 ^ (w - 1) := one_le_pow₀ (by norm_num)
  rw [inArRange, decide_eq_true_eq]
  omega

theorem resetOf_registersWf (c : Config) : (State.resetOf c).registersWf = true := by
  rw [State.registersWf_iff]
  refine ⟨fun r => ?_, zero_inArRange _⟩
  cases r <;> exact ⟨List.length_replicate, replicate_fits _ _ (vecFits_zero _)⟩

/-- A legal configuration has an instruction store of at least one word. -/
theorem Config.imemSize_pos {c : Config} (h : c.wf = true) : 0 < c.imemSize := by
  simp only [Config.wf, Bool.and_eq_true, decide_eq_true_eq] at h
  obtain ⟨⟨⟨_, himem⟩, _⟩, _⟩ := h
  exact himem

theorem resetOf_wf {c : Config} (h : c.wf = true) : (State.resetOf c).wf = true := by
  have himem : 0 < (State.resetOf c).cfg.imemSize := Config.imemSize_pos h
  have hcontrol : (State.resetOf c).controlWf = true := by
    simp [State.controlWf, himem, show (State.resetOf c).progLen = 0 from rfl,
      show (State.resetOf c).ip = 0 from rfl, show (State.resetOf c).faultIp = 0 from rfl,
      show (State.resetOf c).status = .halted from rfl, show (State.resetOf c).faultCause = .none from rfl]
  have hcfg : (State.resetOf c).cfg.wf = true := h
  have hstore : (State.resetOf c).storeWf = true := rfl
  rw [State.wf, hcfg, resetOf_registersWf, hcontrol, hstore]
  rfl

/-- Settles O14: every register is zeros, the store is empty, and a legal configuration has room for a word. -/
theorem resetStateIsWellFormedAndHalted : Obligations.ResetStateIsWellFormedAndHalted :=
  ⟨resetOf_wf (by decide), fun _ h => ⟨resetOf_wf h, rfl, rfl, rfl, rfl, rfl⟩⟩

/-! ### Refusals while RUNNING (R170) -/

/-- While RUNNING every command but RESET is refused. -/
theorem hostCommand_of_running {c : HostCommand} {s : State} (hrun : s.status = .running) (hc : c ≠ .reset) :
    hostCommand c s = s.refuse := by
  cases c
  case reset => exact absurd rfl hc
  all_goals rw [hostCommand, whenStopped, if_pos hrun]

/-- Settles O22: by `hostCommand_of_running`. -/
theorem commandRefusedWhileRunning : Obligations.CommandRefusedWhileRunning := by
  intro s c l hrun hc hpending
  rw [step_issue hpending, hostCommand_of_running (s := s.dropMove) hrun hc, State.dropMove_eq hpending]
  rfl

/-! ### LOAD_PROGRAM (R172) -/

theorem step_loadProgram {s : State} {ws : List IWord} {l : List HostMove} (hstop : s.status ≠ .running)
    (h : s.pending = .issue (.loadProgram ws) :: l) : step s = .next (hostLoadProgram ws s.dropMove) :=
  step_issue_stopped (fun _ => rfl) hstop h

/-- Settles O23: the words written from index 0 on, read back. -/
theorem loadProgramStoresWords : Obligations.LoadProgramStoresWords := by
  intro s ws l hstore hstop hpending
  rw [step_loadProgram hstop hpending, hostLoadProgram, State.dropMove_eq hpending]
  refine ⟨fun hfits => ⟨_, by rw [if_pos hfits], rfl, fun i => ?_, rfl⟩, fun hlong => ?_⟩
  · rw [State.accept_imem, Memory.read_writeFrom hstore]
    simp [Memory.unlisted]
  · rw [if_neg (not_le.2 hlong)]
    rfl

/-! ### WRITE_PARAM (R174) -/

theorem step_writeParam {s : State} {i : Int} {v : Vec4} {l : List HostMove} (hstop : s.status ≠ .running)
    (h : s.pending = .issue (.writeParam i v) :: l) : step s = .next (hostWriteParam i v s.dropMove) :=
  step_issue_stopped (fun _ => rfl) hstop h

theorem readReg_accept (s : State) (r : Region) (i : Nat) : s.accept.readReg r i = s.readReg r i := by
  cases r <;> rfl

/-- Settles O24: an accepted write is `writeReg` of a vector that fits, in range of the Parameter registers. -/
theorem writeParamWritesOneRegister : Obligations.WriteParamWritesOneRegister := by
  intro s i v l hregs hv hstop hpending
  rw [step_writeParam hstop hpending, hostWriteParam, State.dropMove_eq hpending, Vec4.fit_eq_self hv]
  refine ⟨fun hlo hhi => ?_, fun hout => ?_⟩
  · have hlt : i.toNat < (State.region { s with pending := l } .parameter).length := by
      have hlen := State.region_length hregs .parameter
      have hsize : s.cfg.regionSize .parameter = s.cfg.numParam := rfl
      change i.toNat < (s.region .parameter).length
      omega
    refine ⟨_, by rw [if_pos ⟨hlo, hhi⟩], ?_, fun k hk => ?_, ?_, rfl⟩
    · rw [readReg_accept, State.readReg_writeReg _ _ _ _ _ _ hlt, if_pos ⟨rfl, rfl⟩]
    · rw [readReg_accept, State.readReg_writeReg _ _ _ _ _ _ hlt, if_neg (fun h => hk h.2)]
      rfl
    · simp [State.writeReg]
  · have hneg : ¬ (0 ≤ i ∧ i < s.cfg.numParam) := by omega
    exact congrArg _ (if_neg hneg)

/-! ### LOAD_MATRICES (R175) -/

theorem step_loadMatrices {s : State} {bs : List Binding} {l : List HostMove} (hstop : s.status ≠ .running)
    (h : s.pending = .issue (.loadMatrices bs) :: l) : step s = .next (hostLoadMatrices bs s.dropMove) :=
  step_issue_stopped (fun _ => rfl) hstop h

theorem bindingFits_iff (c : Config) (b : Binding) :
    bindingFits c b = true ↔ b.kind = .none ∨ (0 ≤ b.block ∧ b.block + 3 < (c.numParam : Int)) := by
  simp [bindingFits]

/-- Settles O26: one binding that does not fit makes the test over all of them fail. -/
theorem loadMatricesRefusedWhole : Obligations.LoadMatricesRefusedWhole := by
  refine ⟨bindingFits_iff, fun s bs l hstop hpending ⟨b, hb, hbad⟩ => ?_⟩
  have hall : ¬ bs.all (bindingFits s.cfg) = true := by
    rw [List.all_eq_true]
    exact fun h => absurd (h b hb) (by simp [hbad])
  rw [step_loadMatrices hstop hpending, hostLoadMatrices, State.dropMove_eq hpending, if_neg hall]
  rfl

/-- The four vectors a binding loads, by the formula of its kind (R175). -/
def bindingRow (b : Binding) (i : Nat) : Vec4 :=
  match b.kind with
  | .none => Vec4.zero
  | .identity => matrixRow b.m i
  | .transpose => matrixColumn b.m i
  | .inverse => matrixRow b.minv i
  | .inverseTranspose => matrixColumn b.minv i

/-- The registers a binding writes: four from its block on, none for kind None. -/
def bindingHits (b : Binding) (k : Nat) : Prop := b.kind ≠ .none ∧ b.block.toNat ≤ k ∧ k < b.block.toNat + 4

theorem loadBinding_of_none (fl : Flen) (p : List Vec4) {b : Binding} (h : b.kind = .none) :
    loadBinding fl p b = p := by rw [loadBinding, h]

theorem loadBinding_of_kind (fl : Flen) (p : List Vec4) {b : Binding} (h : b.kind ≠ .none) :
    loadBinding fl p b = writeBlock fl p b.block.toNat (bindingRow b) := by
  have hrow : bindingRow b = fun i => bindingRow b i := rfl
  rw [hrow]
  unfold loadBinding bindingRow
  cases hk : b.kind
  case none => exact absurd hk h
  all_goals rfl

/-- A matrix whose elements fit loads bit-exact. -/
theorem bindingRow_fits {fl : Flen} {b : Binding}
    (h : ∀ k, compFits fl (matrixAt b.m k) = true ∧ compFits fl (matrixAt b.minv k) = true) (i : Nat) :
    (bindingRow b i).fit fl = bindingRow b i := by
  apply Vec4.fit_eq_self
  have hm (k : Nat) := (h k).1
  have hminv (k : Nat) := (h k).2
  unfold bindingRow
  cases b.kind <;> simp [matrixRow, matrixColumn, vecFits, hm, hminv]
  cases fl <;> decide

/-- What one binding that fits makes of the Parameter registers. -/
theorem loadBinding_getD {fl : Flen} {c : Config} {p : List Vec4} {b : Binding} (hlen : p.length = c.numParam)
    (hfit : bindingFits c b = true)
    (hm : ∀ k, compFits fl (matrixAt b.m k) = true ∧ compFits fl (matrixAt b.minv k) = true) (k : Nat) :
    (¬ bindingHits b k → (loadBinding fl p b).getD k Vec4.zero = p.getD k Vec4.zero) ∧
    (bindingHits b k → (loadBinding fl p b).getD k Vec4.zero = bindingRow b (k - b.block.toNat)) := by
  by_cases hk : b.kind = .none
  · rw [loadBinding_of_none fl p hk]
    exact ⟨fun _ => rfl, fun h => absurd hk h.1⟩
  · have hblock := ((bindingFits_iff c b).1 hfit).resolve_left hk
    rw [loadBinding_of_kind fl p hk, writeBlock_getD fl p _ _ (by omega) k, bindingRow_fits hm]
    exact ⟨fun h => if_neg fun h' => h ⟨hk, h'⟩, fun h => if_pos h.2⟩

theorem foldl_loadBinding_length (fl : Flen) (bs : List Binding) (p : List Vec4) :
    (bs.foldl (loadBinding fl) p).length = p.length := by
  induction bs generalizing p with
  | nil => rfl
  | cons b bs ih => rw [List.foldl_cons, ih, loadBinding_length]

/-- A register outside every binding keeps its value. -/
theorem foldl_loadBinding_getD {fl : Flen} {c : Config} (k : Nat) (bs : List Binding) (p : List Vec4)
    (hlen : p.length = c.numParam) (hfit : ∀ b ∈ bs, bindingFits c b = true)
    (hm : ∀ b ∈ bs, ∀ k, compFits fl (matrixAt b.m k) = true ∧ compFits fl (matrixAt b.minv k) = true)
    (hout : ∀ b ∈ bs, ¬ bindingHits b k) :
    (bs.foldl (loadBinding fl) p).getD k Vec4.zero = p.getD k Vec4.zero := by
  induction bs generalizing p with
  | nil => rfl
  | cons b bs ih =>
    simp only [List.mem_cons, forall_eq_or_imp] at hfit hm hout
    rw [List.foldl_cons, ih _ ((loadBinding_length fl p b).trans hlen) hfit.2 hm.2 hout.2,
      (loadBinding_getD hlen hfit.1 hm.1 k).1 hout.1]

/-- The state LOAD_MATRICES answers when its bindings fit. -/
def matricesLoaded (s : State) (bs : List Binding) (l : List HostMove) : State :=
  { s with parameter := bs.foldl (loadBinding s.cfg.flen) s.parameter, pending := l, reply := .accepted }

theorem step_loadMatrices_of_fits {s : State} {bs : List Binding} (l : List HostMove) (hstop : s.status ≠ .running)
    (h : ∀ b ∈ bs, bindingFits s.cfg b = true) :
    step { s with pending := .issue (.loadMatrices bs) :: l } = .next (matricesLoaded s bs l) := by
  refine (step_loadMatrices (s := { s with pending := .issue (.loadMatrices bs) :: l }) hstop rfl).trans ?_
  exact congrArg _ (if_pos (List.all_eq_true.2 h))

/-- The registers of a block, one by one. -/
theorem bindingHits_add {b : Binding} (hk : b.kind ≠ .none) {i : Nat} (hi : i < 4) :
    bindingHits b (b.block.toNat + i) := ⟨hk, by omega, by omega⟩

/-- Settles O25: the last binding by `loadBinding_getD`, those before it by `foldl_loadBinding_getD`. -/
theorem loadMatricesAppliesBindingsInOrder : Obligations.LoadMatricesAppliesBindingsInOrder := by
  intro s bs b l hregs hstop hm hfit
  have hlen : s.parameter.length = s.cfg.numParam := State.region_length hregs .parameter
  have hfitBs : ∀ x ∈ bs, bindingFits s.cfg x = true := fun x hx => hfit x (by simp [hx])
  have hlenBs : (matricesLoaded s bs l).parameter.length = s.cfg.numParam :=
    (foldl_loadBinding_length _ _ _).trans hlen
  have hlast (k : Nat) := loadBinding_getD hlenBs (hfit b (by simp)) (hm b (by simp)) k
  have hparam : (matricesLoaded s (bs ++ [b]) l).parameter =
      loadBinding s.cfg.flen (matricesLoaded s bs l).parameter b := List.foldl_concat _ _ _ _
  refine ⟨matricesLoaded s (bs ++ [b]) l, matricesLoaded s bs l, step_loadMatrices_of_fits l hstop hfit,
    step_loadMatrices_of_fits l hstop hfitBs, step_loadMatrices_of_fits l hstop (by simp), rfl,
    foldl_loadBinding_length _ _ _, fun k hout => ?outside, fun hnone => ?none,
    fun hkind => ⟨fun k hk => ?other, ?block⟩⟩
  case outside =>
    refine foldl_loadBinding_getD k _ _ hlen hfit hm fun x hx hhit => ?_
    obtain ⟨hkind, hlo, hhi⟩ := hhit
    rcases hout x hx with h | h | h
    · exact hkind h
    · omega
    · omega
  case none => rw [hparam, loadBinding_of_none _ _ hnone]
  case other =>
    rw [State.readReg, State.region, hparam]
    refine (hlast k).1 fun hhit => ?_
    obtain ⟨_, hlo, hhi⟩ := hhit
    omega
  case block =>
    intro i hi
    have hrow : (matricesLoaded s (bs ++ [b]) l).readReg .parameter (b.block.toNat + i) = bindingRow b i := by
      rw [State.readReg, State.region, hparam]
      exact ((hlast _).2 (bindingHits_add hkind hi)).trans (by rw [Nat.add_sub_cancel_left])
    rw [hrow]
    refine ⟨fun h => ?_, fun h => ?_, fun h => ?_, fun h => ?_⟩ <;> rw [bindingRow, h] <;> rfl

/-! ### READ_OUTPUT and READ_STATUS (R178, R179) -/

theorem status_code_eq_one (st : Status) : st.code = 1 ↔ st = .running := by cases st <;> decide

/-- Settles O29: while not RUNNING the commands read their registers, and only STATUS = RUNNING has the code 1. -/
theorem readCommandsReturnState : Obligations.ReadCommandsReturnState := by
  refine ⟨fun s i l hstop hpending => ?_, fun s l hstop hpending => ⟨?_, ?_⟩⟩
  · rw [step_issue_stopped (f := hostReadOutput i) (fun _ => rfl) hstop hpending, hostReadOutput,
      State.dropMove_eq hpending]
    refine ⟨fun hlo hhi => ?_, fun hout => ?_⟩
    · rw [if_pos ⟨hlo, hhi⟩]
      rfl
    · have hneg : ¬ (0 ≤ i ∧ i < s.cfg.numOut) := by omega
      exact congrArg _ (if_neg hneg)
  · rwa [Ne, status_code_eq_one]
  · rw [step_issue_stopped (f := hostReadStatus) (fun _ => rfl) hstop hpending, State.dropMove_eq hpending]
    rfl

end Sys2Proof.Machine
end

section
/-! PROOFS. Relative fetch, generated NaNs, and the results of the other instructions (40_execution_model.md R64,
41_fp_units.md R82, 42_componentwise.md R115 to R120, 43_dot_products.md, 44_scalar_special.md, 45_address_end.md
R160). -/

namespace Sys2Proof

/-! ### Generated NaNs (R82) -/

/-- The fraction a generated NaN gets is never 0 and fits its field. -/
theorem nanFrac_bounds (fl : Flen) (x : Nat) :
    0 < (if x % 2 ^ fl.fracBits = 0 then 2 ^ (fl.fracBits - 1) else x % 2 ^ fl.fracBits) ∧
      (if x % 2 ^ fl.fracBits = 0 then 2 ^ (fl.fracBits - 1) else x % 2 ^ fl.fracBits) < 2 ^ fl.fracBits := by
  split
  · cases fl <;> decide
  · exact ⟨by omega, Nat.mod_lt _ (by positivity)⟩

/-- Settles O59: the magnitude bits are those of infinity and a fraction that is not 0. -/
theorem generatedNanIsNan : Obligations.GeneratedNanIsNan := by
  intro fl n
  obtain ⟨hpos, hlt⟩ := nanFrac_bounds fl (Config.draw n).toNat
  have hbound := fl.infMag_eq
  refine ⟨?_, compFits_ofSignMag _ _ (by omega)⟩
  rw [isNan, Machine.drawNan, magOf_ofSignMag _ _ (by omega), decide_eq_true_eq]
  omega

/-! ### Classes -/

theorem isNan_of_isInf {fl : Flen} {a : Comp} (h : isInf fl a = true) : isNan fl a = false := by
  simp_all [isInf, isNan]

theorem isNan_of_isFinite {fl : Flen} {a : Comp} (h : isFinite fl a = true) : isNan fl a = false := by
  simp only [isFinite, isNan, decide_eq_true_eq, decide_eq_false_iff_not] at h ⊢
  omega

theorem isInf_of_isFinite {fl : Flen} {a : Comp} (h : isFinite fl a = true) : isInf fl a = false := by
  simp only [isFinite, isInf, decide_eq_true_eq, beq_eq_false_iff_ne] at h ⊢
  omega

/-! ### Signs and exchanged operands -/

@[simp] theorem fneg_fneg (fl : Flen) (a : Comp) : fneg fl (fneg fl a) = a := by
  rw [fneg, fneg, BitVec.xor_assoc, BitVec.xor_self, BitVec.xor_zero]

theorem fneg_zero (fl : Flen) : fneg fl 0 = fzero fl true := by cases fl <;> decide

theorem addFin_comm (fl : Flen) (n1 : Bool) (m1 : Nat) (e1 : Int) (n2 : Bool) (m2 : Nat) (e2 : Int) :
    addFin fl n1 m1 e1 n2 m2 e2 = addFin fl n2 m2 e2 n1 m1 e1 := by
  simp only [addFin, min_comm e1 e2, add_comm (signed n1 _), Bool.and_comm n1]

theorem fadd_comm (fl : Flen) (q a b : Comp) : fadd fl q a b = fadd fl q b a := by
  unfold fadd
  cases ha : unpack fl a with
  | nan => cases unpack fl b <;> rfl
  | inf n =>
    cases unpack fl b with
    | nan => rfl
    | inf n' => cases n <;> cases n' <;> rfl
    | fin n' m' e' => rfl
  | fin n m e =>
    cases unpack fl b with
    | nan => rfl
    | inf n' => rfl
    | fin n' m' e' => exact addFin_comm fl n m e n' m' e'

theorem fmul_comm (fl : Flen) (q a b : Comp) : fmul fl q a b = fmul fl q b a := by
  unfold fmul
  cases ha : unpack fl a with
  | nan => cases unpack fl b <;> rfl
  | inf n =>
    cases unpack fl b with
    | nan => rfl
    | inf n' => cases n <;> cases n' <;> rfl
    | fin n' m' e' => cases n <;> cases n' <;> rfl
  | fin n m e =>
    cases unpack fl b with
    | nan => rfl
    | inf n' => cases n <;> cases n' <;> rfl
    | fin n' m' e' => simp only [bne, Bool.beq_comm (a := n), Nat.mul_comm m, add_comm e]

theorem addVec_comm (c : Config) (q : Nat → Comp) (t u : Vec4) : addVec c q t u = addVec c q u t := by
  simp only [addVec, fadd_comm]

theorem mulVec_comm (c : Config) (q : Nat → Comp) (t u : Vec4) : mulVec c q t u = mulVec c q u t := by
  simp only [mulVec, fmul_comm]

theorem dot3_comm (fl : Flen) (q : Comp) (t u : Vec4) : dot3 fl q t u = dot3 fl q u t := by
  simp only [dot3, fmul_comm fl q t.x, fmul_comm fl q t.y, fmul_comm fl q t.z]

theorem dp3Vec_comm (c : Config) (q : Nat → Comp) (t u : Vec4) : dp3Vec c q t u = dp3Vec c q u t := by
  rw [dp3Vec, dot3_comm, dp3Vec]

theorem dp4Vec_comm (c : Config) (q : Nat → Comp) (t u : Vec4) : dp4Vec c q t u = dp4Vec c q u t := by
  rw [dp4Vec, dot3_comm, fmul_comm, dp4Vec]

/-! ### Floor and conversion to an integer (R95, R96) -/

theorem f2i_of_isFinite {fl : Flen} (w : Nat) {a : Comp} (h : isFinite fl a = true) :
    f2i fl w a = if inArRange w ⌊valueOf fl a⌋ = true then some ⌊valueOf fl a⌋ else none := by
  obtain ⟨m, e, hu, _, _, _⟩ := unpack_of_isFinite h
  simp only [f2i, hu, valueOf_of_unpack hu, floorInt_eq_floor]

theorem inArRange_of_f2i {fl : Flen} {w : Nat} {a : Comp} {k : Int} (h : f2i fl w a = some k) :
    inArRange w k = true := by
  unfold f2i at h
  split at h
  case h_1 => cases h
  case h_2 => cases h
  case h_3 =>
    split at h
    case isTrue hr => exact Option.some.inj h ▸ hr
    case isFalse => cases h

end Sys2Proof

namespace Sys2Proof.Machine

/-! ### Relative fetch (R64) -/

theorem resolve_of_direct (s : State) {o : SrcOperand} (h : o.rel = false) :
    resolve s o = s.readReg o.region o.index.toNat := by
  rw [resolve, h]
  rfl

theorem resolve_of_relative (s : State) {o : SrcOperand} (h : o.rel = true) :
    resolve s o = if (o.index.toNat : Int) + s.ar < 0 ∨ (s.cfg.numParam : Int) ≤ (o.index.toNat : Int) + s.ar then
      Vec4.zero else s.readReg .parameter ((o.index.toNat : Int) + s.ar).toNat := by
  rw [resolve, if_pos h]

/-- A zero register fetches as zeros of the sign the negate flag says (R66). -/
theorem fetchVector4_of_zero {s : State} {o : SrcOperand} (h : resolve s o = Vec4.zero) :
    fetchVector4 s o = Vec4.splat (fzero s.cfg.flen o.neg) := by
  ext c : 1
  rw [fetchVector4_get, h, Vec4.get_zero, Vec4.get_splat, fneg_zero]
  cases o.neg <;> rfl

/-- Settles O30: by the cases of `resolve`; a zero register fetches as zeros of one sign. -/
theorem relativeFetchIsBounded : Obligations.RelativeFetchIsBounded := by
  intro s o
  refine ⟨resolve_of_direct s, fun hrel hlo hhi => ?_, fun hrel hout => ?_⟩
  · rw [resolve_of_relative s hrel, if_neg (by omega)]
  · have hzero : resolve s o = Vec4.zero := by rw [resolve_of_relative s hrel, if_pos hout]
    exact ⟨hzero, fetchVector4_of_zero hzero⟩

/-! ### The results by component -/

theorem isNan_nanFor (s : State) (i : Nat) : isNan s.cfg.flen (nanFor s i) = true :=
  (generatedNanIsNan s.cfg.flen (s.draws + i)).1

section Results

variable (s : State) (d : DstOperand) (t u v : SrcOperand)

theorem resultOf_mad : resultOf (.mad d t u v) s = .ofFn fun i => fadd s.cfg.flen (nanFor s i)
    (fmul s.cfg.flen (nanFor s i) ((fetchVector4 s t).get i) ((fetchVector4 s u).get i))
    ((fetchVector4 s v).get i) := rfl

theorem resultOf_min : resultOf (.min d t u) s = .ofFn fun i =>
    if flt s.cfg.flen ((fetchVector4 s t).get i) ((fetchVector4 s u).get i) then (fetchVector4 s t).get i
    else (fetchVector4 s u).get i := rfl

theorem resultOf_max : resultOf (.max d t u) s = .ofFn fun i =>
    if flt s.cfg.flen ((fetchVector4 s u).get i) ((fetchVector4 s t).get i) then (fetchVector4 s t).get i
    else (fetchVector4 s u).get i := rfl

theorem resultOf_dp3 : resultOf (.dp3 d t u) s =
    .splat (dot3 s.cfg.flen (nanFor s 0) (fetchVector4 s t) (fetchVector4 s u)) := rfl

theorem resultOf_dp4 : resultOf (.dp4 d t u) s =
    .splat (fadd s.cfg.flen (nanFor s 0) (dot3 s.cfg.flen (nanFor s 0) (fetchVector4 s t) (fetchVector4 s u))
      (fmul s.cfg.flen (nanFor s 0) (fetchVector4 s t).w (fetchVector4 s u).w)) := rfl

theorem resultOf_dph : resultOf (.dph d t u) s =
    .splat (fadd s.cfg.flen (nanFor s 0) (dot3 s.cfg.flen (nanFor s 0) (fetchVector4 s t) (fetchVector4 s u))
      (fetchVector4 s u).w) := rfl

theorem resultOf_rcp : resultOf (.rcp d t) s = .splat (recip s.cfg.flen (nanFor s 0) (fetchVector1 s t)) := rfl

theorem resultOf_rsq : resultOf (.rsq d t) s = .splat (frcp s.cfg.flen (nanFor s 0)
    (fsqrt s.cfg.flen (nanFor s 0) (fabs s.cfg.flen (fetchVector1 s t)))) := rfl

theorem resultOf_exp : resultOf (.exp d t) s = expVec s.cfg (nanFor s) (fetchVector1 s t) := rfl

theorem resultOf_log :
    resultOf (.log d t) s = logMagVec s.cfg (nanFor s) (fabs s.cfg.flen (fetchVector1 s t)) := rfl

end Results

/-! ### The obligations about results -/

/-- Settles O35: `exec_writesOnly` at MAD, with its result by component. -/
theorem madRoundsTwice : Obligations.MadRoundsTwice := by
  intro s d t u v hs hmad
  rw [← resultOf_mad s d t u v]
  exact exec_writesOnly hs hmad rfl

/-- Settles O36: `exec_writesOnly` at MIN and MAX, with their results by component. -/
theorem minMaxResults : Obligations.MinMaxResults := by
  intro s d t u hs
  dsimp only
  rw [← resultOf_min s d t u, ← resultOf_max s d t u]
  exact ⟨fun hmin => exec_writesOnly hs hmin rfl, fun hmax => exec_writesOnly hs hmax rfl⟩

/-- Settles O38: `exec_writesOnly` at DP3, DP4 and DPH; `dot3` is the sum of the first three products. -/
theorem dotProductResults : Obligations.DotProductResults := by
  intro s d t u hs
  dsimp only
  rw [← dot3, ← resultOf_dp3 s d t u, ← resultOf_dp4 s d t u, ← resultOf_dph s d t u]
  exact ⟨fun hdp3 => exec_writesOnly hs hdp3 rfl, fun hdp4 => exec_writesOnly hs hdp4 rfl,
    fun hdph => exec_writesOnly hs hdph rfl⟩

/-- Settles O40: `exec_writesOnly` at RCP and RSQ; `recip` is the reciprocal with the case of 1.0. -/
theorem reciprocalResults : Obligations.ReciprocalResults := by
  intro s d t hs
  dsimp only
  rw [← recip, ← resultOf_rcp s d t, ← resultOf_rsq s d t]
  exact ⟨fun hrcp => exec_writesOnly hs hrcp rfl, fun hrsq => exec_writesOnly hs hrsq rfl⟩

/-- The clamp of RCC, case by case. -/
theorem rccClamp_cases (c : Config) (q r : Comp) :
    (isNan c.flen r = true → rccClamp c q r = q) ∧
    (isNan c.flen r = false → signOf c.flen r = false →
      rccClamp c q r = clampHi c.flen (clampLo c.flen r c.rccMin) c.rccMax) ∧
    (isNan c.flen r = false → signOf c.flen r = true →
      rccClamp c q r = clampLo c.flen (clampHi c.flen r (fneg c.flen c.rccMin)) (fneg c.flen c.rccMax)) := by
  unfold rccClamp
  exact ⟨fun h => by simp [h], fun h hs => by simp [h, hs], fun h hs => by simp [h, hs]⟩

/-- Settles O41: `exec_writesOnly` at RCC, with the cases of its clamp. -/
theorem clampedReciprocalResult : Obligations.ClampedReciprocalResult := by
  intro s d t hs hrcc
  dsimp only
  rw [← recip]
  obtain ⟨hnan, hpos, hneg⟩ :=
    rccClamp_cases s.cfg (nanFor s 0) (recip s.cfg.flen (nanFor s 0) (fetchVector1 s t))
  obtain ⟨s', hexec, hwrites⟩ := exec_writesOnly hs hrcc rfl
  exact ⟨s', _, hexec, hwrites, fun h => by rw [hnan h]; exact isNan_nanFor s 0, hpos, hneg⟩

/-- The result of EXP, case by case. -/
theorem expVec_of_nan {c : Config} (q : Nat → Comp) {a : Comp} (h : isNan c.flen a = true) :
    expVec c q a = ⟨q 0, q 1, q 2, fone c.flen⟩ := by
  rw [expVec, if_pos h]

theorem expVec_of_not_nan {c : Config} (q : Nat → Comp) {a : Comp} (h : isNan c.flen a = false) :
    expVec c q a = ⟨fexp2 c.flen (q 0) (ffloor c.flen (q 1) a),
      if isInf c.flen a = true then 0 else fsub c.flen (q 1) a (ffloor c.flen (q 1) a),
      fexp2 c.flen (q 2) a, fone c.flen⟩ := by
  rw [expVec, if_neg (by simp [h])]
  rfl

/-- Settles O43: `exec_writesOnly` at EXP, with the cases of its result. -/
theorem expResult : Obligations.ExpResult := by
  intro s d t hs hexp
  dsimp only
  obtain ⟨s', hexec, hwrites⟩ := exec_writesOnly hs hexp rfl
  refine ⟨s', _, hexec, hwrites, ?_⟩
  rw [resultOf_exp]
  cases hnan : isNan s.cfg.flen (fetchVector1 s t) with
  | true =>
    rw [expVec_of_nan _ hnan]
    refine ⟨rfl, fun _ => ⟨isNan_nanFor s 0, isNan_nanFor s 1, isNan_nanFor s 2⟩, fun h => absurd h (by decide),
      fun h => ?_, fun h => ?_⟩
    · rw [isNan_of_isInf h] at hnan
      cases hnan
    · rw [isNan_of_isFinite h] at hnan
      cases hnan
  | false =>
    rw [expVec_of_not_nan _ hnan]
    refine ⟨rfl, fun h => absurd h (by decide), fun _ => ⟨rfl, rfl⟩, fun h => if_pos h, fun h => if_neg ?_⟩
    rw [isInf_of_isFinite h]
    decide

/-- Settles O45: `exec_writesOnly` at LIT; the +0 of its clamps has no bit set. -/
theorem litResult : Obligations.LitResult := by
  intro s d t hs hlit
  exact exec_writesOnly hs hlit rfl

/-! ### ARL (R160) -/

theorem arlValue_inArRange (s : State) (a : Comp) : inArRange s.cfg.arWidth (arlValue s a) = true := by
  rw [arlValue]
  cases h : f2i s.cfg.flen s.cfg.arWidth (ffloor s.cfg.flen (nanFor s 0) a) with
  | none => exact drawAr_inRange _ _
  | some k => exact inArRange_of_f2i h

/-- The floor of a finite scalar is loaded where `AR` can hold it. -/
theorem arlValue_of_isFinite {s : State} {a : Comp} (h : isFinite s.cfg.flen a = true)
    (hr : inArRange s.cfg.arWidth ⌊valueOf s.cfg.flen a⌋ = true) : arlValue s a = ⌊valueOf s.cfg.flen a⌋ := by
  obtain ⟨hfin, hval⟩ := valueOf_ffloor (nanFor s 0) h
  rw [arlValue, f2i_of_isFinite _ hfin, hval, Int.floor_intCast, if_pos hr, Option.getD_some]

theorem readReg_writeAr (s : State) (v : Int) (r : Region) (i : Nat) : (writeAr v s).readReg r i = s.readReg r i := by
  cases r <;> rfl

/-- Settles O47: a legal ARL writes `arlValue` and nothing else. -/
theorem arlLoadsFloor : Obligations.ArlLoadsFloor := by
  intro s t harl
  refine ⟨writeAr (arlValue s (fetchVector1 s t)) s, exec_ok harl, arlValue_inArRange s _,
    fun k hfin hlo hhi hr => ?_, fun r i c => by rw [readReg_writeAr], rfl, rfl, ⟨rfl, rfl, rfl, rfl, rfl⟩,
    fun _ => rfl, rfl, ⟨rfl, rfl, rfl, rfl, rfl⟩⟩
  obtain rfl : ⌊valueOf s.cfg.flen (fetchVector1 s t)⌋ = k := Int.floor_eq_iff.2 ⟨hlo, hhi⟩
  exact arlValue_of_isFinite hfin hr

/-! ### Instructions that agree (R113, R120, R130, R131) -/

/-- Two instructions with the same checks and the same effect do the same. -/
theorem exec_congr {i j : Instr} {s : State} (hcheck : staticCheck s.cfg i = staticCheck s.cfg j)
    (heff : effectOf i s = effectOf j s) : exec i s = exec j s := by
  rw [exec_eq, exec_eq, hcheck, heff]

theorem fetchVector4_not_neg (s : State) (o : SrcOperand) (c : CIdx) :
    (fetchVector4 s { o with neg := !o.neg }).get c = fneg s.cfg.flen ((fetchVector4 s o).get c) := by
  rw [fetchVector4_get, fetchVector4_get]
  cases hn : o.neg
  · rfl
  · simp only [Bool.not_true, Bool.false_eq_true, if_false, if_true, fneg_fneg]
    rfl

theorem subVec_eq_addVec (s : State) (t u : SrcOperand) :
    subVec s.cfg (nanFor s) (fetchVector4 s t) (fetchVector4 s u) =
      addVec s.cfg (nanFor s) (fetchVector4 s t) (fetchVector4 s { u with neg := !u.neg }) := by
  simp only [subVec, addVec, fsub, fetchVector4_not_neg]

/-- Settles O48: the negate flag is not checked, and inverting it negates every fetched component. -/
theorem subEqualsAddOfNegated : Obligations.SubEqualsAddOfNegated := by
  intro s d t u
  exact exec_congr rfl (congrArg (writeResult d · s) (subVec_eq_addVec s t u))

/-- Legal sources pass their checks in either order. -/
theorem checkOperands_swap {c : Config} {t u : SrcOperand} (d : Option DstOperand) (ht : t.wf c = true)
    (hu : u.wf c = true) : checkOperands c d [t, u] = checkOperands c d [u, t] := by
  simp only [checkOperands_eq, List.map_cons, List.map_nil, (checkSrc_eq_none c t).2 ht, (checkSrc_eq_none c u).2 hu]

/-- Settles O49: legal sources pass their checks in either order, and the four value functions are commutative. -/
theorem commutativeInstructions : Obligations.CommutativeInstructions := by
  intro s d t u ht hu
  have hcheck := checkOperands_swap (some d) ht hu
  have heff {v w : Vec4} (h : v = w) : writeResult d v s = writeResult d w s := by rw [h]
  exact ⟨exec_congr hcheck (heff (addVec_comm _ _ _ _)), exec_congr hcheck (heff (mulVec_comm _ _ _ _)),
    exec_congr hcheck (heff (dp3Vec_comm _ _ _ _)), exec_congr hcheck (heff (dp4Vec_comm _ _ _ _))⟩

end Sys2Proof.Machine
end

section
/-! PROOFS. No unit answers a bit above `FLEN` (41_fp_units.md R80). -/

namespace Sys2Proof

open Sys2Proof.Machine

/-! ### Magnitudes in range -/

theorem magOf_lt (fl : Flen) (x : Comp) : magOf fl x < 2 ^ (fl.bits - 1) := Nat.mod_lt _ (by positivity)

theorem natAbs_sortKey (fl : Flen) (x : Comp) : (sortKey fl x).natAbs = magOf fl x := by
  rw [sortKey, signed]
  split <;> simp

theorem natAbs_sortKey_lt (fl : Flen) (x : Comp) : (sortKey fl x).natAbs < 2 ^ (fl.bits - 1) := by
  rw [natAbs_sortKey]
  exact magOf_lt fl x

theorem roundMag_le (fl : Flen) (m : Nat) (e : Int) (sticky : Bool) : roundMag fl m e sticky ≤ fl.infMag := by
  rw [roundMag]
  split
  · exact Nat.zero_le _
  · exact min_le_right _ _

theorem roundQuot_le (fl : Flen) (num den : Nat) (e : Int) : roundQuot fl num den e ≤ fl.infMag :=
  roundMag_le fl _ _ _

/-- Between two keys of floats the search of the units answers the key of a float. -/
theorem clampInt_natAbs_lt {lo hi : Int} {b : Nat} (v : Int) (hlo : lo.natAbs < b) (hhi : hi.natAbs < b) :
    (clampInt lo hi v).natAbs < b := by
  rw [clampInt]
  split
  · exact hlo
  · split
    · exact hhi
    · omega

theorem monotoneBelow_natAbs_lt (raw : Int → Int) {b : Nat} (d : Nat) {base lo hi : Int} (k : Int)
    (hlo : lo.natAbs < b) (hhi : hi.natAbs < b) : (monotoneBelow raw d base lo hi k).natAbs < b := by
  induction d generalizing base lo hi with
  | zero => exact clampInt_natAbs_lt _ hlo hhi
  | succ d ih =>
    have hpivot := clampInt_natAbs_lt (raw (base + (2 ^ d : Nat))) hlo hhi
    dsimp only [monotoneBelow]
    split
    · exact ih hlo hpivot
    · exact ih hpivot hhi

/-! ### The units -/

section Fits

variable {fl : Flen}

theorem compFits_ofSignMag_le (n : Bool) {k : Nat} (h : k ≤ fl.infMag) : compFits fl (ofSignMag fl n k) = true :=
  compFits_ofSignMag fl n (h.trans_lt fl.infMag_lt)

theorem compFits_fzero (n : Bool) : compFits fl (fzero fl n) = true := compFits_ofSignMag_le n (Nat.zero_le _)

theorem compFits_finf (n : Bool) : compFits fl (finf fl n) = true := compFits_ofSignMag_le n le_rfl

theorem compFits_roundFin (n : Bool) (m : Nat) (e : Int) : compFits fl (roundFin fl n m e) = true :=
  compFits_ofSignMag_le n (roundMag_le fl m e false)

theorem compFits_intFloat (k : Int) : compFits fl (intFloat fl k) = true := compFits_roundFin _ _ _

theorem compFits_pow2Float (k : Int) : compFits fl (pow2Float fl k) = true := compFits_roundFin _ _ _

theorem compFits_fone : compFits fl (fone fl) = true := compFits_pow2Float 0

theorem compFits_ofSortKey {k : Int} (h : k.natAbs < 2 ^ (fl.bits - 1)) : compFits fl (ofSortKey fl k) = true :=
  compFits_ofSignMag fl _ h

/-- No bit at or above `FLEN`. -/
theorem compFits_iff (x : Comp) : compFits fl x = true ↔ ∀ i, fl.bits ≤ i → x.getLsbD i = false := by
  rw [compFits, decide_eq_true_eq]
  constructor
  · intro h i hi
    exact Nat.testBit_lt_two_pow (h.trans_le (Nat.pow_le_pow_right (by decide) hi))
  · exact fun h => Nat.lt_pow_two_of_testBit _ h

theorem Flen.bits_pos (fl : Flen) : 0 < fl.bits := by cases fl <;> decide

theorem compFits_fneg {a : Comp} (h : compFits fl a = true) : compFits fl (fneg fl a) = true := by
  rw [compFits_iff] at h ⊢
  intro i hi
  have hpos := fl.bits_pos
  rw [getLsbD_fneg, if_neg (by omega), h i hi]

theorem compFits_fabs {a : Comp} (h : compFits fl a = true) : compFits fl (fabs fl a) = true := by
  rw [compFits_iff] at h ⊢
  intro i hi
  rw [fabs, BitVec.getLsbD_and, h i hi, Bool.false_and]

theorem compFits_ite {p : Prop} [Decidable p] {a b : Comp} (ha : compFits fl a = true) (hb : compFits fl b = true) :
    compFits fl (if p then a else b) = true := by
  split
  · exact ha
  · exact hb

variable {q a b : Comp} (hq : compFits fl q = true)

theorem compFits_boolFloat (p : Bool) : compFits fl (boolFloat fl p) = true :=
  compFits_ite compFits_fone (compFits_fzero false)

theorem compFits_fmin (ha : compFits fl a = true) (hb : compFits fl b = true) : compFits fl (fmin fl a b) = true :=
  compFits_ite ha hb

theorem compFits_fmax (ha : compFits fl a = true) (hb : compFits fl b = true) : compFits fl (fmax fl a b) = true :=
  compFits_ite ha hb

theorem compFits_clampLo (ha : compFits fl a = true) (hb : compFits fl b = true) :
    compFits fl (clampLo fl a b) = true := compFits_ite hb ha

theorem compFits_clampHi (ha : compFits fl a = true) (hb : compFits fl b = true) :
    compFits fl (clampHi fl a b) = true := compFits_ite hb ha

include hq

theorem compFits_fadd : compFits fl (fadd fl q a b) = true := by
  rw [fadd]
  split
  case h_1 => exact hq
  case h_2 => exact hq
  case h_3 => exact compFits_ite (compFits_finf _) hq
  case h_4 => exact compFits_finf _
  case h_5 => exact compFits_finf _
  case h_6 => exact compFits_ite (compFits_fzero _) (compFits_roundFin _ _ _)

theorem compFits_fsub : compFits fl (fsub fl q a b) = true := compFits_fadd hq

theorem compFits_fmul : compFits fl (fmul fl q a b) = true := by
  rw [fmul]
  split
  case h_1 => exact hq
  case h_2 => exact hq
  case h_3 => exact compFits_finf _
  case h_4 => exact compFits_ite hq (compFits_finf _)
  case h_5 => exact compFits_ite hq (compFits_finf _)
  case h_6 => exact compFits_roundFin _ _ _

theorem compFits_frcp : compFits fl (frcp fl q a) = true := by
  rw [frcp]
  split
  case h_1 => exact hq
  case h_2 => exact compFits_fzero _
  case h_3 => exact compFits_ite (compFits_finf _) (compFits_ofSignMag_le _ (roundQuot_le _ _ _ _))

omit hq in
theorem compFits_log2Inexact (k : Int) : compFits fl (log2Inexact fl a k) = true :=
  compFits_ite (compFits_fzero _)
    (compFits_ofSortKey (monotoneBelow_natAbs_lt _ _ _ (natAbs_sortKey_lt _ _) (natAbs_sortKey_lt _ _)))

theorem compFits_flog2 : compFits fl (flog2 fl q a) = true := by
  rw [flog2]
  split
  case h_1 => exact hq
  case h_2 => exact compFits_ite hq (compFits_finf _)
  case h_3 =>
    exact compFits_ite (compFits_finf _)
      (compFits_ite hq (compFits_ite (compFits_intFloat _) (compFits_log2Inexact _)))

omit hq in
theorem compFits_exp2Inexact (f : Int) : compFits fl (exp2Inexact fl a f) = true :=
  compFits_ofSortKey (monotoneBelow_natAbs_lt _ _ _ (natAbs_sortKey_lt _ _) (natAbs_sortKey_lt _ _))

theorem compFits_fexp2 : compFits fl (fexp2 fl q a) = true := by
  rw [fexp2]
  split
  case h_1 => exact hq
  case h_2 => exact compFits_ite (compFits_fzero _) (compFits_finf _)
  case h_3 =>
    exact compFits_ite (compFits_finf _)
      (compFits_ite (compFits_fzero _) (compFits_ite (compFits_pow2Float _) (compFits_exp2Inexact _)))

theorem compFits_recip : compFits fl (recip fl q a) = true := compFits_ite compFits_fone (compFits_frcp hq)

end Fits

/-! ### Vectors -/

theorem vecFits_iff {fl : Flen} {v : Vec4} : vecFits fl v = true ↔ ∀ c, compFits fl (v.get c) = true := by
  simp only [vecFits, Bool.and_eq_true]
  constructor
  · rintro ⟨⟨⟨hx, hy⟩, hz⟩, hw⟩ c
    fin_cases c
    · exact hx
    · exact hy
    · exact hz
    · exact hw
  · exact fun h => ⟨⟨⟨h 0, h 1⟩, h 2⟩, h 3⟩

theorem vecFits_mk {fl : Flen} {x y z w : Comp} (hx : compFits fl x = true) (hy : compFits fl y = true)
    (hz : compFits fl z = true) (hw : compFits fl w = true) : vecFits fl ⟨x, y, z, w⟩ = true := by
  simp only [vecFits, hx, hy, hz, hw, Bool.and_self]

theorem vecFits_ofFn {fl : Flen} {f : CIdx → Comp} (h : ∀ c, compFits fl (f c) = true) :
    vecFits fl (.ofFn f) = true := vecFits_iff.2 fun c => by rw [Vec4.get_ofFn]; exact h c

theorem vecFits_splat {fl : Flen} {x : Comp} (h : compFits fl x = true) : vecFits fl (.splat x) = true :=
  vecFits_iff.2 fun c => by rw [Vec4.get_splat]; exact h

theorem vecFits_vecZero (fl : Flen) : vecFits fl Vec4.zero = true := vecFits_zero fl

theorem vecFits_initVec (fl : Flen) : vecFits fl (initVec fl) = true :=
  vecFits_mk (compFits_fzero _) (compFits_fzero _) (compFits_fzero _) compFits_fone

/-! ### Results -/

section Results

variable {c : Config} {q : Nat → Comp} {t u v : Vec4} {a : Comp} (hc : c.wf = true)
  (hq : ∀ i, compFits c.flen (q i) = true) (ht : vecFits c.flen t = true)

omit c q t u v a hc hq ht in
/-- The parameters of a legal configuration that are floats fit (R4). -/
theorem Config.consts_fit {c : Config} (h : c.wf = true) :
    compFits c.flen c.rccMax = true ∧ compFits c.flen c.rccMin = true ∧ compFits c.flen c.litEps = true := by
  rw [Config.wf, Bool.and_eq_true] at h
  obtain ⟨_, hlits⟩ := h
  cases hfl : c.flen
  · rw [hfl] at hlits
    obtain ⟨hmax, hmin, heps⟩ := of_decide_eq_true hlits
    exact ⟨decide_eq_true hmax, decide_eq_true hmin, decide_eq_true heps⟩
  · exact ⟨decide_eq_true c.rccMax.isLt, decide_eq_true c.rccMin.isLt, decide_eq_true c.litEps.isLt⟩

include hq in
theorem compFits_dot3 : compFits c.flen (dot3 c.flen (q 0) t u) = true := compFits_fadd (hq 0)

include hc hq in
theorem vecFits_rccVec : vecFits c.flen (rccVec c q a) = true := by
  obtain ⟨hmax, hmin, _⟩ := Config.consts_fit hc
  have hr : compFits c.flen (recip c.flen (q 0) a) = true := compFits_recip (hq 0)
  exact vecFits_splat (compFits_ite (hq 0) (compFits_ite
    (compFits_clampLo (compFits_clampHi hr (compFits_fneg hmin)) (compFits_fneg hmax))
    (compFits_clampHi (compFits_clampLo hr hmin) hmax)))

include hq in
theorem vecFits_expVec : vecFits c.flen (expVec c q a) = true := by
  rw [expVec]
  split
  · exact vecFits_mk (hq 0) (hq 1) (hq 2) compFits_fone
  · exact vecFits_mk (compFits_fexp2 (hq 0)) (compFits_ite (compFits_fzero _) (compFits_fsub (hq 1)))
      (compFits_fexp2 (hq 2)) compFits_fone

include hq in
theorem vecFits_logMagVec : vecFits c.flen (logMagVec c q a) = true := by
  rw [logMagVec]
  split
  case h_1 => exact vecFits_mk (hq 0) (hq 1) (hq 2) compFits_fone
  case h_2 => exact vecFits_mk (compFits_finf _) compFits_fone (compFits_finf _) compFits_fone
  case h_3 =>
    split
    · exact vecFits_mk (compFits_finf _) compFits_fone (compFits_finf _) compFits_fone
    · exact vecFits_mk (compFits_intFloat _) (compFits_roundFin _ _ _) (compFits_flog2 (hq 2)) compFits_fone

include hq ht in
theorem vecFits_litVec : vecFits c.flen (litVec c q t) = true :=
  vecFits_mk compFits_fone (compFits_clampLo (vecFits_iff.1 ht 0) (compFits_fzero _))
    (compFits_ite (compFits_fexp2 (hq 2)) (compFits_fzero _)) compFits_fone

end Results

end Sys2Proof
end

section
/-! PROOFS. Every step keeps the state well-formed (10_state.md R10 to R23). -/

namespace Sys2Proof.Machine

/-! ### Fetched operands and results fit -/

section Fetched

variable {s : State} (hs : s.registersWf = true)

theorem compFits_nanFor (s : State) (i : Nat) : compFits s.cfg.flen (nanFor s i) = true :=
  (generatedNanIsNan s.cfg.flen (s.draws + i)).2

include hs

theorem readReg_fits (r : Region) (i : Nat) : vecFits s.cfg.flen (s.readReg r i) = true := by
  obtain ⟨hregion, _⟩ := (State.registersWf_iff s).1 hs
  obtain ⟨_, hfits⟩ := hregion r
  rw [State.readReg, List.getD_eq_getElem?_getD]
  cases h : (s.region r)[i]? with
  | none => exact vecFits_vecZero _
  | some v => exact List.all_eq_true.1 hfits v (List.mem_of_getElem? h)

theorem resolve_fits (o : SrcOperand) : vecFits s.cfg.flen (resolve s o) = true := by
  cases h : o.rel with
  | false =>
    rw [resolve_of_direct s h]
    exact readReg_fits hs _ _
  | true =>
    rw [resolve_of_relative s h]
    split
    · exact vecFits_vecZero _
    · exact readReg_fits hs _ _

theorem fetchVector4_fits (o : SrcOperand) : vecFits s.cfg.flen (fetchVector4 s o) = true := by
  refine vecFits_iff.2 fun c => ?_
  have h := vecFits_iff.1 (resolve_fits hs o) (swzOf o c)
  rw [fetchVector4_get]
  exact compFits_ite (compFits_fneg h) h

theorem fetched_fits (o : SrcOperand) (c : CIdx) : compFits s.cfg.flen ((fetchVector4 s o).get c) = true :=
  vecFits_iff.1 (fetchVector4_fits hs o) c

/-- Every result fits the format. -/
theorem resultOf_fits (hc : s.cfg.wf = true) (i : Instr) : vecFits s.cfg.flen (resultOf i s) = true := by
  have hq (n : Nat) := compFits_nanFor s n
  have hf (o : SrcOperand) (c : CIdx) := fetched_fits hs o c
  cases i with
  | endProg => exact vecFits_vecZero _
  | arl t => exact vecFits_vecZero _
  | mov d t => exact fetchVector4_fits hs t
  | abs d t => exact vecFits_ofFn fun c => compFits_fabs (hf t c)
  | add d t u => exact vecFits_ofFn fun c => compFits_fadd (hq c)
  | sub d t u => exact vecFits_ofFn fun c => compFits_fsub (hq c)
  | mul d t u => exact vecFits_ofFn fun c => compFits_fmul (hq c)
  | mad d t u v => exact vecFits_ofFn fun c => compFits_fadd (hq c)
  | min d t u => exact vecFits_ofFn fun c => compFits_fmin (hf t c) (hf u c)
  | max d t u => exact vecFits_ofFn fun c => compFits_fmax (hf t c) (hf u c)
  | slt d t u => exact vecFits_ofFn fun c => compFits_boolFloat _
  | sge d t u => exact vecFits_ofFn fun c => compFits_boolFloat _
  | dp3 d t u => exact vecFits_splat (compFits_dot3 hq)
  | dp4 d t u => exact vecFits_splat (compFits_fadd (hq 0))
  | dph d t u => exact vecFits_splat (compFits_fadd (hq 0))
  | dst d t u => exact vecFits_mk compFits_fone (compFits_fmul (hq 1)) (hf t 2) (hf u 3)
  | rcp d t => exact vecFits_splat (compFits_recip (hq 0))
  | rsq d t => exact vecFits_splat (compFits_frcp (hq 0))
  | rcc d t => exact vecFits_rccVec hc hq
  | exp d t => exact vecFits_expVec hq
  | log d t => exact vecFits_logMagVec hq
  | lit d t => exact vecFits_litVec hq (fetchVector4_fits hs t)

/-! ### Register writes keep the register file well-formed -/

omit hs in
theorem all_set_fits {fl : Flen} {l : List Vec4} {v : Vec4} (i : Nat) (hl : l.all (vecFits fl) = true)
    (hv : vecFits fl v = true) : (l.set i v).all (vecFits fl) = true := by
  rw [List.all_eq_true] at hl ⊢
  intro x hx
  rcases List.mem_or_eq_of_mem_set hx with hx | rfl
  · exact hl x hx
  · exact hv

theorem writeReg_registersWf (r : Region) (i : Nat) {v : Vec4} (hv : vecFits s.cfg.flen v = true) :
    (s.writeReg r i v).registersWf = true := by
  obtain ⟨hregion, har⟩ := (State.registersWf_iff s).1 hs
  rw [State.registersWf_iff, State.writeReg_cfg, State.writeReg_ar]
  refine ⟨fun r' => ?_, har⟩
  by_cases h : r' = r
  · subst h
    obtain ⟨hlen, hfits⟩ := hregion r'
    rw [State.writeReg_region_same, List.length_set]
    exact ⟨hlen, all_set_fits i hfits hv⟩
  · rw [State.writeReg_region_other _ _ _ _ _ h]
    exact hregion r'

theorem storeVector4_registersWf (d : DstOperand) {v : Vec4} (hv : vecFits s.cfg.flen v = true) :
    (storeVector4 d v s).registersWf = true := by
  refine writeReg_registersWf hs _ _ (vecFits_iff.2 fun c => ?_)
  rw [maskMerge_get]
  exact compFits_ite (vecFits_iff.1 hv c) (vecFits_iff.1 (readReg_fits hs _ _) c)

end Fetched

/-! ### The parts of well-formedness -/

theorem State.wf_iff (s : State) : s.wf = true ↔
    s.cfg.wf = true ∧ s.registersWf = true ∧ s.controlWf = true ∧ s.storeWf = true := by
  simp only [State.wf, Bool.and_eq_true, and_assoc]

/-- What `controlWf` says, by STATUS. -/
theorem State.controlWf_iff (s : State) : s.controlWf = true ↔
    s.progLen ≤ s.cfg.imemSize ∧ s.ip ≤ s.cfg.imemSize ∧ s.faultIp < s.cfg.imemSize ∧
      (s.status ≠ .faulted → s.faultCause = .none) ∧ (s.status = .running → s.ip ≤ s.progLen) ∧
      (s.status = .faulted → s.faultCause ≠ .none ∧ s.faultIp = s.ip) ∧ (s.faultCause = .none → s.faultIp = 0) := by
  unfold State.controlWf
  cases hstatus : s.status <;> simp [imp_iff_not_or, and_assoc]

/-! ### Dispatcher steps -/

section Dispatcher

variable {s t : State}

/-- A step to the next index inside the program keeps the control registers well-formed. -/
theorem controlWf_of_next (hs : s.controlWf = true) (hrun : s.status = .running) (hip : s.ip < s.progLen)
    (hcfg : t.cfg = s.cfg) (hstatus : t.status = s.status) (hip' : t.ip = s.ip + 1) (hlen : t.progLen = s.progLen)
    (hcause : t.faultCause = s.faultCause) (hfip : t.faultIp = s.faultIp) : t.controlWf = true := by
  obtain ⟨hsize, _, hfault, hnone, _, _, hzero⟩ := (State.controlWf_iff s).1 hs
  have hne : s.status ≠ .faulted := by rw [hrun]; decide
  rw [State.controlWf_iff, hcfg, hstatus, hip', hlen, hcause, hfip]
  exact ⟨hsize, by omega, hfault, hnone, fun _ => hip, fun h => absurd h hne, hzero⟩

theorem controlWf_of_halt (hs : s.controlWf = true) (hrun : s.status = .running) :
    ({ s with status := .halted } : State).controlWf = true := by
  obtain ⟨hsize, hip, hfault, hnone, _, _, hzero⟩ := (State.controlWf_iff s).1 hs
  exact (State.controlWf_iff _).2 ⟨hsize, hip, hfault, fun _ => hnone (by rw [hrun]; decide),
    fun h => absurd h (by simp), fun h => absurd h (by simp), hzero⟩

theorem raiseFault_controlWf {c : FaultCause} (hs : s.controlWf = true) (hip : s.ip < s.progLen) (hc : c ≠ .none) :
    (raiseFault c s).controlWf = true := by
  obtain ⟨hsize, hipSize, _⟩ := (State.controlWf_iff s).1 hs
  exact (State.controlWf_iff _).2 ⟨hsize, hipSize, hip.trans_le hsize, fun h => absurd rfl h,
    fun h => absurd h (by simp), fun _ => ⟨hc, rfl⟩, fun h => absurd h hc⟩

theorem raiseFault_registersWf (c : FaultCause) (hs : s.registersWf = true) :
    (raiseFault c s).registersWf = true := by
  obtain ⟨hregion, _⟩ := (State.registersWf_iff s).1 hs
  refine (State.registersWf_iff _).2 ⟨fun r => ?_, drawAr_inRange _ _⟩
  cases r
  case input => exact hregion .input
  case parameter => exact hregion .parameter
  all_goals exact ⟨drawRegs_length _ _ _, drawRegs_fit _ _ _⟩

theorem writeAr_registersWf {v : Int} (hs : s.registersWf = true) (hv : inArRange s.cfg.arWidth v = true) :
    (writeAr v s).registersWf = true :=
  (State.registersWf_iff _).2 ⟨((State.registersWf_iff s).1 hs).1, hv⟩

/-- A dispatcher step keeps the state well-formed. -/
theorem dispatcherStep_wf (hs : s.wf = true) (hrun : s.status = .running) (hstep : dispatcherStep s = .next t) :
    t.wf = true := by
  obtain ⟨hcfg, hregs, hcontrol, hstore⟩ := (State.wf_iff s).1 hs
  obtain ⟨t', ht', heff⟩ := dispatcherStep_effects s
  obtain rfl := Host.Outcome.next.inj (ht'.symm.trans hstep)
  rcases heff with rfl | ⟨hip, ⟨c, _, hc, _, rfl⟩ | rfl | ⟨i, d, _, _, rfl⟩ | ⟨o, _, rfl⟩⟩
  case inl => exact (State.wf_iff _).2 ⟨hcfg, hregs, controlWf_of_halt hcontrol hrun, hstore⟩
  case inr.inl =>
    exact (State.wf_iff _).2
      ⟨hcfg, raiseFault_registersWf c hregs, raiseFault_controlWf hcontrol hip hc, hstore⟩
  case inr.inr.inl =>
    exact (State.wf_iff _).2
      ⟨hcfg, hregs, controlWf_of_next hcontrol hrun hip rfl rfl rfl rfl rfl rfl, hstore⟩
  case inr.inr.inr.inl =>
    refine (State.wf_iff _).2 ⟨?_, ?_, ?_, ?_⟩
    · rwa [writeResult_cfg]
    · exact storeVector4_registersWf hregs d (resultOf_fits hregs hcfg i)
    · exact controlWf_of_next hcontrol hrun hip (by simp) (by simp) (by simp) (by simp) (by simp) (by simp)
    · rwa [State.storeWf, writeResult_imem, writeResult_cfg]
  case inr.inr.inr.inr =>
    exact (State.wf_iff _).2 ⟨hcfg, writeAr_registersWf hregs (arlValue_inArRange _ _),
      controlWf_of_next hcontrol hrun hip rfl rfl rfl rfl rfl rfl, hstore⟩

end Dispatcher

/-! ### Host commands -/

section Host

variable {s : State} (hs : s.wf = true)

include hs

theorem refuse_wf : s.refuse.wf = true := hs

theorem hostReset_wf : (hostReset s).wf = true := by
  obtain ⟨hcfg, _, _, _⟩ := (State.wf_iff s).1 hs
  have hsize := Config.imemSize_pos hcfg
  refine (State.wf_iff _).2 ⟨hcfg, hostReset_registersWf s, ?_, hostReset_storeWf s⟩
  exact (State.controlWf_iff _).2 ⟨Nat.zero_le _, Nat.zero_le _, hsize, fun _ => rfl, fun _ => le_rfl,
    fun h => absurd h (by simp [hostReset]), fun _ => rfl⟩

theorem hostLoadProgram_wf (ws : List IWord) (hstop : s.status ≠ .running) : (hostLoadProgram ws s).wf = true := by
  obtain ⟨hcfg, hregs, hcontrol, hstore⟩ := (State.wf_iff s).1 hs
  rw [hostLoadProgram]
  split
  case isFalse => exact refuse_wf hs
  case isTrue hlen =>
    obtain ⟨hmem, hbound⟩ := (State.storeWf_iff s).1 hstore
    obtain ⟨_, hip, hfault, hnone, _, hfaulted, hzero⟩ := (State.controlWf_iff s).1 hcontrol
    refine (State.wf_iff _).2 ⟨hcfg, hregs, (State.controlWf_iff _).2
      ⟨hlen, hip, hfault, hnone, fun h => absurd h hstop, hfaulted, hzero⟩, (State.storeWf_iff _).2
      ⟨Memory.writeFrom_wf hmem 0 ws, Memory.writeFrom_bounded hbound 0 ws ?_⟩⟩
    rw [Nat.zero_add]
    exact hlen

theorem hostWriteParam_wf (i : Int) (v : Vec4) : (hostWriteParam i v s).wf = true := by
  obtain ⟨hcfg, hregs, hcontrol, hstore⟩ := (State.wf_iff s).1 hs
  rw [hostWriteParam]
  split
  case isFalse => exact refuse_wf hs
  case isTrue =>
    exact (State.wf_iff _).2 ⟨hcfg, writeReg_registersWf hregs .parameter i.toNat (vecFits_fit _ v), hcontrol, hstore⟩

omit hs in
theorem writeBlock_fits {fl : Flen} {p : List Vec4} (b : Nat) (v : Nat → Vec4) (h : p.all (vecFits fl) = true) :
    (writeBlock fl p b v).all (vecFits fl) = true :=
  all_set_fits _ (all_set_fits _ (all_set_fits _ (all_set_fits _ h (vecFits_fit _ _)) (vecFits_fit _ _))
    (vecFits_fit _ _)) (vecFits_fit _ _)

omit hs in
theorem loadBinding_fits {fl : Flen} {p : List Vec4} (b : Binding) (h : p.all (vecFits fl) = true) :
    (loadBinding fl p b).all (vecFits fl) = true := by
  by_cases hk : b.kind = .none
  · rwa [loadBinding_of_none _ _ hk]
  · rw [loadBinding_of_kind _ _ hk]
    exact writeBlock_fits _ _ h

omit hs in
theorem foldl_loadBinding_fits {fl : Flen} (bs : List Binding) {p : List Vec4} (h : p.all (vecFits fl) = true) :
    (bs.foldl (loadBinding fl) p).all (vecFits fl) = true := by
  induction bs generalizing p with
  | nil => exact h
  | cons b bs ih => exact ih (loadBinding_fits b h)

theorem hostLoadMatrices_wf (bs : List Binding) : (hostLoadMatrices bs s).wf = true := by
  obtain ⟨hcfg, hregs, hcontrol, hstore⟩ := (State.wf_iff s).1 hs
  obtain ⟨hregion, har⟩ := (State.registersWf_iff s).1 hregs
  rw [hostLoadMatrices]
  split
  case isFalse => exact refuse_wf hs
  case isTrue =>
    refine (State.wf_iff _).2 ⟨hcfg, (State.registersWf_iff _).2 ⟨fun r => ?_, har⟩, hcontrol, hstore⟩
    cases r
    case parameter =>
      obtain ⟨hlen, hfits⟩ := hregion .parameter
      exact ⟨(foldl_loadBinding_length _ _ _).trans hlen, foldl_loadBinding_fits bs hfits⟩
    case input => exact hregion .input
    case output => exact hregion .output
    case temporary => exact hregion .temporary

theorem hostInit_wf (a : Vector Vec4 16) : (hostInit a s).wf = true := by
  obtain ⟨hcfg, hregs, hcontrol, hstore⟩ := (State.wf_iff s).1 hs
  obtain ⟨hregion, _⟩ := (State.registersWf_iff s).1 hregs
  refine (State.wf_iff _).2 ⟨hcfg, (State.registersWf_iff _).2 ⟨fun r => ?_, zero_inArRange _⟩, hcontrol, hstore⟩
  cases r
  case input => exact ⟨by simp [State.region, Config.regionSize], by simp [State.region, vecFits_fit]⟩
  case parameter => exact hregion .parameter
  all_goals exact ⟨List.length_replicate, replicate_fits _ _ (vecFits_initVec _)⟩

theorem hostRun_wf : (hostRun s).wf = true := by
  obtain ⟨hcfg, hregs, hcontrol, hstore⟩ := (State.wf_iff s).1 hs
  obtain ⟨hsize, _⟩ := (State.controlWf_iff s).1 hcontrol
  exact (State.wf_iff _).2 ⟨hcfg, hregs, (State.controlWf_iff _).2 ⟨hsize, Nat.zero_le _, Config.imemSize_pos hcfg,
    fun _ => rfl, fun _ => Nat.zero_le _, fun h => absurd h (by simp), fun _ => rfl⟩, hstore⟩

theorem hostReadOutput_wf (i : Int) : (hostReadOutput i s).wf = true := by
  rw [hostReadOutput]
  split
  · exact hs
  · exact refuse_wf hs

/-- A host command keeps the state well-formed. -/
theorem hostCommand_wf (c : HostCommand) : (hostCommand c s).wf = true := by
  have hstopped {f : State → State} (hf : s.status ≠ .running → (f s).wf = true) : (whenStopped s f).wf = true := by
    rw [whenStopped]
    split
    · exact refuse_wf hs
    · exact hf ‹_›
  cases c with
  | reset => exact hostReset_wf hs
  | loadProgram ws => exact hstopped (hostLoadProgram_wf hs ws)
  | writeParam i v => exact hstopped fun _ => hostWriteParam_wf hs i v
  | loadMatrices bs => exact hstopped fun _ => hostLoadMatrices_wf hs bs
  | init a => exact hstopped fun _ => hostInit_wf hs a
  | run => exact hstopped fun _ => hostRun_wf hs
  | readOutput i => exact hstopped fun _ => hostReadOutput_wf hs i
  | readStatus => exact hstopped fun _ => hs

end Host

/-- Settles O13: host commands, dispatcher steps and passing moves each keep the state well-formed. -/
theorem stepKeepsStateWellFormed : Obligations.StepKeepsStateWellFormed := by
  intro s t hs hstep
  have hdrop : s.dropMove.wf = true := hs
  rcases step_cases hstep with ⟨c, rest, _, rfl⟩ | ⟨hrun, _, hdisp⟩ | ⟨_, _, rfl⟩
  · exact hostCommand_wf hdrop c
  · exact dispatcherStep_wf hdrop hrun hdisp
  · exact hdrop

end Sys2Proof.Machine
end

section
/-! PROOFS. The scale of the floats, what is nearest on it, and the rounding of the units (41_fp_units.md R81). -/

namespace Sys2Proof

/-! ### The scale of magnitude bits -/

/-- `magValue_field_add` also where the significand has carried to twice the hidden bit. -/
theorem magValue_field_add_le {fl : Flen} {j s : Nat} (hlo : j = 0 ∨ 2 ^ fl.fracBits ≤ s)
    (hhi : s ≤ 2 ^ (fl.fracBits + 1)) :
    magValue fl (j * 2 ^ fl.fracBits + s) = (s : ℚ) * 2 ^ (fl.eulp + j) := by
  rcases hhi.lt_or_eq with hlt | rfl
  · exact magValue_field_add hlo hlt
  · have hpow : 2 ^ (fl.fracBits + 1) = 2 * 2 ^ fl.fracBits := by ring
    have hsum : j * 2 ^ fl.fracBits + 2 ^ (fl.fracBits + 1) = (j + 1) * 2 ^ fl.fracBits + 2 ^ fl.fracBits := by ring
    have hpos : 0 < 2 ^ fl.fracBits := by positivity
    rw [hsum, magValue_field_add (.inr le_rfl) (by omega)]
    push_cast
    rw [← add_assoc, zpow_add_one₀ two_ne_zero, pow_succ]
    ring

/-- Every magnitude is an exponent field and a significand as `magValue_field_add` takes them. -/
theorem exists_field_add (fl : Flen) (k : Nat) :
    ∃ j s, k = j * 2 ^ fl.fracBits + s ∧ (j = 0 ∨ 2 ^ fl.fracBits ≤ s) ∧ s < 2 ^ (fl.fracBits + 1) := by
  have hpow : 2 ^ (fl.fracBits + 1) = 2 * 2 ^ fl.fracBits := by ring
  have hmod := Nat.mod_lt k (show 0 < 2 ^ fl.fracBits by positivity)
  have hdiv := Nat.div_add_mod k (2 ^ fl.fracBits)
  cases hex : k / 2 ^ fl.fracBits with
  | zero =>
    rw [hex] at hdiv
    exact ⟨0, k, by simp, .inl rfl, by omega⟩
  | succ j =>
    rw [hex] at hdiv
    refine ⟨j, 2 ^ fl.fracBits + k % 2 ^ fl.fracBits, ?_, .inr (by omega), by omega⟩
    calc k = 2 ^ fl.fracBits * (j + 1) + k % 2 ^ fl.fracBits := hdiv.symm
      _ = j * 2 ^ fl.fracBits + (2 ^ fl.fracBits + k % 2 ^ fl.fracBits) := by ring

/-- From one magnitude to the next the value rises by the weight of the last bit. -/
theorem magValue_lt_succ (fl : Flen) (k : Nat) : magValue fl k < magValue fl (k + 1) := by
  obtain ⟨j, s, rfl, hlo, hhi⟩ := exists_field_add fl k
  rw [magValue_field_add hlo hhi, add_assoc, magValue_field_add_le (hlo.imp_right (by omega)) hhi]
  have hpos : (0 : ℚ) < 2 ^ (fl.eulp + j) := by positivity
  push_cast
  nlinarith

theorem magValue_strictMono (fl : Flen) : StrictMono (magValue fl) := strictMono_nat_of_lt_succ (magValue_lt_succ fl)

theorem magValue_nonneg (fl : Flen) (k : Nat) : 0 ≤ magValue fl k := by
  rw [← magValue_zero fl]
  exact (magValue_strictMono fl).monotone (Nat.zero_le k)

/-- The values of magnitudes as reals. -/
def magReal (fl : Flen) (k : Nat) : ℝ := (magValue fl k : ℝ)

theorem magReal_strictMono (fl : Flen) : StrictMono (magReal fl) :=
  fun _ _ h => Rat.cast_lt.2 (magValue_strictMono fl h)

theorem magReal_field_add_le {fl : Flen} {j s : Nat} (hlo : j = 0 ∨ 2 ^ fl.fracBits ≤ s)
    (hhi : s ≤ 2 ^ (fl.fracBits + 1)) : magReal fl (j * 2 ^ fl.fracBits + s) = (s : ℝ) * 2 ^ (fl.eulp + j) := by
  rw [magReal, magValue_field_add_le hlo hhi]
  push_cast
  rfl

/-! ### Nearest on the scale -/

theorem nearestEven_iff (fl : Flen) (x : ℝ) (r : Nat) : NearestEven fl x r ↔
    r ≤ fl.infMag ∧ ∀ k ≤ fl.infMag, k ≠ r → |x - magReal fl r| < |x - magReal fl k| ∨
      (|x - magReal fl r| = |x - magReal fl k| ∧ r % 2 = 0) := Iff.rfl

/-- The real `x` is not beyond the middle to either neighbour of the magnitude `r` on the scale without end, and in
the middle only if `r` is even. -/
structure Rounds (fl : Flen) (x : ℝ) (r : Nat) : Prop where
  below : ∀ p, r = p + 1 → magReal fl p + magReal fl r ≤ 2 * x ∧ (magReal fl p + magReal fl r = 2 * x → r % 2 = 0)
  above : 2 * x ≤ magReal fl r + magReal fl (r + 1) ∧ (2 * x = magReal fl r + magReal fl (r + 1) → r % 2 = 0)

theorem abs_sub_lt_of_lt_mid {x a b : ℝ} (hab : a < b) (h : 2 * x < a + b) : |x - a| < |x - b| := by
  rw [abs_of_neg (show x - b < 0 by linarith)]
  exact abs_lt.2 ⟨by linarith, by linarith⟩

theorem abs_sub_lt_of_mid_lt {x a b : ℝ} (hab : a < b) (h : a + b < 2 * x) : |x - b| < |x - a| := by
  rw [abs_of_pos (show 0 < x - a by linarith)]
  exact abs_lt.2 ⟨by linarith, by linarith⟩

theorem abs_sub_eq_of_mid {x a b : ℝ} (h : a + b = 2 * x) : |x - a| = |x - b| := by
  rw [← abs_neg (x - b)]
  congr 1
  linarith

/-- Not beyond the middle to the neighbours is nearest; magnitudes above those of infinity give infinity. -/
theorem Rounds.nearestEven {fl : Flen} {x : ℝ} {r : Nat} (h : Rounds fl x r) :
    NearestEven fl x (min r fl.infMag) := by
  have hmono := magReal_strictMono fl
  rw [nearestEven_iff]
  refine ⟨min_le_right _ _, fun k hk hne => ?_⟩
  rcases le_or_gt r fl.infMag with hr | hr
  · rw [min_eq_left hr] at hne ⊢
    rcases lt_or_gt_of_ne hne with hlt | hgt
    · obtain ⟨p, rfl⟩ : ∃ p, r = p + 1 := ⟨r - 1, by omega⟩
      obtain ⟨hle, heven⟩ := h.below p rfl
      have hkp : magReal fl k ≤ magReal fl p := hmono.monotone (by omega)
      rcases (add_le_add_left hkp (magReal fl (p + 1))).trans hle |>.lt_or_eq with hlt' | heq
      · exact .inl (abs_sub_lt_of_mid_lt (hmono hlt) (by linarith))
      · exact .inr ⟨(abs_sub_eq_of_mid (by linarith)).symm, heven (by linarith)⟩
    · obtain ⟨hle, heven⟩ := h.above
      have hrk : magReal fl (r + 1) ≤ magReal fl k := hmono.monotone (by omega)
      rcases (show 2 * x ≤ magReal fl r + magReal fl k by linarith).lt_or_eq with hlt' | heq
      · exact .inl (abs_sub_lt_of_lt_mid (hmono hgt) hlt')
      · exact .inr ⟨abs_sub_eq_of_mid heq.symm, heven (by linarith)⟩
  · rw [min_eq_right hr.le] at hne ⊢
    obtain ⟨p, rfl⟩ : ∃ p, r = p + 1 := ⟨r - 1, by omega⟩
    obtain ⟨hle, _⟩ := h.below p rfl
    have hp : magReal fl fl.infMag ≤ magReal fl p := hmono.monotone (by omega)
    have hp' : magReal fl fl.infMag < magReal fl (p + 1) := hmono hr
    have hlt : magReal fl k < magReal fl fl.infMag := hmono (lt_of_le_of_ne hk hne)
    exact .inl (abs_sub_lt_of_mid_lt hlt (by linarith))

/-- There is one nearest magnitude: between two different ones at the same distance lies a nearer one, or one of the
two is odd. -/
theorem NearestEven.unique {fl : Flen} {x : ℝ} {r r' : Nat} (h : NearestEven fl x r) (h' : NearestEven fl x r') :
    r = r' := by
  wlog hlt : r < r' generalizing r r'
  · rcases (not_lt.1 hlt).lt_or_eq with hgt | heq
    · exact (this h' h hgt).symm
    · exact heq.symm
  rw [nearestEven_iff] at h h'
  obtain ⟨hr, hall⟩ := h
  obtain ⟨hr', hall'⟩ := h'
  have hmono := magReal_strictMono fl
  have hmid := hmono (show r < r + 1 by omega)
  rcases hall r' hr' hlt.ne' with hd | ⟨hd, heven⟩ <;> rcases hall' r hr hlt.ne with hd' | ⟨hd', heven'⟩
  · linarith
  · linarith
  · linarith
  · have hbetween := hmono (show r + 1 < r' by omega)
    have hnear : |x - magReal fl (r + 1)| < |x - magReal fl r'| := by
      rcases lt_or_ge (2 * x) (magReal fl (r + 1) + magReal fl r') with hx | hx
      · exact abs_sub_lt_of_lt_mid hbetween hx
      · have := abs_sub_lt_of_mid_lt (hmono hlt) (show magReal fl r + magReal fl r' < 2 * x by linarith)
        linarith
    rcases hall' (r + 1) (by omega) (by omega) with hd'' | ⟨hd'', _⟩ <;> linarith

/-- A magnitude of the scale is nearest to its own value. -/
theorem NearestEven.eq_of_value {fl : Flen} {k r : Nat} (h : NearestEven fl (magReal fl k) r) (hk : k ≤ fl.infMag) :
    r = k := by
  by_contra hne
  rw [nearestEven_iff] at h
  obtain ⟨_, hall⟩ := h
  have hpos : 0 ≤ |magReal fl k - magReal fl r| := abs_nonneg _
  rcases hall k hk (Ne.symm hne) with hd | ⟨hd, _⟩
  · rw [sub_self, abs_zero] at hd
    linarith
  · rw [sub_self, abs_zero, abs_eq_zero, sub_eq_zero] at hd
    exact hne ((magReal_strictMono fl).injective hd).symm

/-! ### Rounding to an integer -/

/-- The integer `r` is nearest to the real `y`, and even on a tie. -/
structure RoundsInt (y : ℝ) (r : Nat) : Prop where
  below : 2 * (r : ℝ) - 1 ≤ 2 * y
  belowEven : 2 * (r : ℝ) - 1 = 2 * y → r % 2 = 0
  above : 2 * y ≤ 2 * r + 1
  aboveEven : 2 * y = 2 * r + 1 → r % 2 = 0

theorem RoundsInt.of_lt {y : ℝ} {r : Nat} (hlo : 2 * (r : ℝ) - 1 < 2 * y) (hhi : 2 * y < 2 * r + 1) :
    RoundsInt y r := ⟨hlo.le, fun h => absurd h hlo.ne, hhi.le, fun h => absurd h hhi.ne⟩

theorem roundsInt_natCast (r : Nat) : RoundsInt r r := .of_lt (by linarith) (by linarith)

/-- `x` is the real `m` * 2^`e`, or with `sticky` one strictly between this and (`m` + 1) * 2^`e`. -/
def Sticks (m : Nat) (e : Int) (sticky : Bool) (x : ℝ) : Prop :=
  if sticky = true then (m : ℝ) * 2 ^ e < x ∧ x < (m + 1 : ℝ) * 2 ^ e else x = (m : ℝ) * 2 ^ e

theorem Sticks.bounds {m : Nat} {e : Int} {sticky : Bool} {x : ℝ} (h : Sticks m e sticky x) :
    (m : ℝ) * 2 ^ e ≤ x ∧ x < (m + 1 : ℝ) * 2 ^ e := by
  have hpos : (0 : ℝ) < 2 ^ e := by positivity
  unfold Sticks at h
  split at h
  · exact ⟨h.1.le, h.2⟩
  · exact ⟨h.ge, by rw [h]; nlinarith⟩

/-- `roundShift` rounds `m` / 2^`k`, or a real just above it, to nearest even. -/
theorem roundsInt_roundShift {m k : Nat} {sticky : Bool} {y : ℝ} (hk : k ≠ 0)
    (h : Sticks m 0 sticky (y * 2 ^ k)) : RoundsInt y (roundShift m k sticky) := by
  obtain ⟨hlo, hhi⟩ := h.bounds
  rw [zpow_zero, mul_one] at hlo hhi
  obtain ⟨i, rfl⟩ := Nat.exists_eq_succ_of_ne_zero hk
  have hD : 2 ^ (i + 1) = 2 * 2 ^ i := by ring
  have hrem : m % 2 ^ (i + 1) < 2 ^ (i + 1) := Nat.mod_lt _ (by positivity)
  have hdiv : (m : ℝ) = 2 ^ (i + 1) * (m / 2 ^ (i + 1) : Nat) + (m % 2 ^ (i + 1) : Nat) := by
    exact_mod_cast (Nat.div_add_mod m (2 ^ (i + 1))).symm
  have hpos : (0 : ℝ) < 2 ^ (i + 1) := by positivity
  rw [roundShift]
  simp only [Nat.succ_eq_add_one] at *
  generalize m / 2 ^ (i + 1) = quo at *
  generalize hr : m % 2 ^ (i + 1) = rem at *
  have hrem' : (rem : ℝ) + 1 ≤ 2 ^ (i + 1) := by exact_mod_cast hrem
  by_cases hgt : 2 ^ (i + 1) < 2 * rem
  · rw [if_pos hgt]
    have hgt' : (2 : ℝ) ^ (i + 1) < 2 * rem := by exact_mod_cast hgt
    refine .of_lt ?_ ?_ <;> push_cast <;> refine lt_of_mul_lt_mul_right ?_ hpos.le <;> nlinarith
  rw [if_neg hgt]
  by_cases htie : 2 * rem = 2 ^ (i + 1)
  · rw [if_pos htie]
    have htie' : 2 * (rem : ℝ) = 2 ^ (i + 1) := by exact_mod_cast htie
    cases sticky
    case true =>
      simp only [Bool.true_or, if_true]
      obtain ⟨hlo', _⟩ : (m : ℝ) * 2 ^ (0 : Int) < y * 2 ^ (i + 1) ∧ _ := h
      rw [zpow_zero, mul_one] at hlo'
      refine .of_lt ?_ ?_ <;> push_cast <;> refine lt_of_mul_lt_mul_right ?_ hpos.le <;> nlinarith
    case false =>
      have hexact : y * 2 ^ (i + 1) = (m : ℝ) * 2 ^ (0 : Int) := h
      rw [zpow_zero, mul_one] at hexact
      have hy : 2 * y = 2 * quo + 1 := by
        refine mul_right_cancel₀ hpos.ne' ?_
        nlinarith
      by_cases hodd : quo % 2 = 1
      · rw [if_pos (by simp [hodd])]
        exact ⟨by push_cast; linarith, fun _ => by omega, by push_cast; linarith, fun _ => by omega⟩
      · rw [if_neg (by simp [hodd])]
        exact ⟨by linarith, fun _ => by omega, by linarith, fun _ => by omega⟩
  · rw [if_neg htie]
    have hlt : 2 * (rem : ℝ) + 2 ≤ 2 ^ (i + 1) := by
      exact_mod_cast (show 2 * rem + 2 ≤ 2 ^ (i + 1) by omega)
    have hrem0 : (0 : ℝ) ≤ rem := Nat.cast_nonneg _
    refine .of_lt ?_ ?_ <;> refine lt_of_mul_lt_mul_right ?_ hpos.le <;> nlinarith

/-! ### Rounding to the format -/

theorem two_dvd_two_pow_fracBits (fl : Flen) : 2 ∣ 2 ^ fl.fracBits := by cases fl <;> decide

theorem field_add_even {fl : Flen} (j : Nat) {s : Nat} (h : s % 2 = 0) : (j * 2 ^ fl.fracBits + s) % 2 = 0 := by
  obtain ⟨p, hp⟩ := two_dvd_two_pow_fracBits fl
  rw [hp, ← mul_assoc, mul_comm j 2, mul_assoc, Nat.mul_add_mod, h]

/-- A significand rounded to an integer, with its exponent field, is rounded on the scale. -/
theorem rounds_field_add {fl : Flen} {j s : Nat} {y : ℝ} (hint : RoundsInt y s) (hs : s ≤ 2 ^ (fl.fracBits + 1))
    (hj : j = 0 ∨ 2 ^ fl.fracBits ≤ y) : Rounds fl (y * 2 ^ (fl.eulp + j)) (j * 2 ^ fl.fracBits + s) := by
  have hW : (0 : ℝ) < 2 ^ (fl.eulp + j) := by positivity
  have hpow : 2 ^ (fl.fracBits + 1) = 2 * 2 ^ fl.fracBits := by ring
  have hP : 0 < 2 ^ fl.fracBits := by positivity
  have hlo : j = 0 ∨ 2 ^ fl.fracBits ≤ s := by
    refine hj.imp_right fun hy => ?_
    have habove := hint.above
    have : (2 : ℝ) * (2 ^ fl.fracBits : Nat) ≤ 2 * s + 1 := by push_cast; linarith
    have : 2 * 2 ^ fl.fracBits ≤ 2 * s + 1 := by exact_mod_cast this
    omega
  have hself := magReal_field_add_le hlo hs
  refine ⟨fun p hp => ?_, ?_⟩
  · by_cases hstep : j = 0 ∨ 2 ^ fl.fracBits < s
    · obtain ⟨s', rfl⟩ : ∃ s', s = s' + 1 := ⟨s - 1, by rcases hstep with rfl | h <;> omega⟩
      obtain rfl : p = j * 2 ^ fl.fracBits + s' := by omega
      have hprev := magReal_field_add_le (fl := fl) (hstep.imp_right Nat.lt_succ_iff.1) (show s' ≤ _ by omega)
      have hbelow := hint.below
      have heven := hint.belowEven
      rw [hself, hprev]
      push_cast at hbelow heven ⊢
      refine ⟨by nlinarith, fun heq => field_add_even j (heven ?_)⟩
      refine mul_right_cancel₀ hW.ne' ?_
      linarith
    · push Not at hstep
      obtain ⟨hj0, hsle⟩ := hstep
      obtain ⟨i, rfl⟩ := Nat.exists_eq_succ_of_ne_zero hj0
      obtain rfl : s = 2 ^ fl.fracBits := le_antisymm hsle (hlo.resolve_left hj0)
      obtain ⟨u, hu⟩ : ∃ u, 2 ^ (fl.fracBits + 1) = u + 1 := ⟨2 ^ (fl.fracBits + 1) - 1, by omega⟩
      obtain rfl : p = i * 2 ^ fl.fracBits + u := by
        rw [Nat.succ_eq_add_one, add_mul] at hp
        omega
      have hprev := magReal_field_add_le (fl := fl) (j := i) (s := u) (.inr (by omega)) (by omega)
      have hy := hj.resolve_left hj0
      have hu' : (2 : ℝ) * 2 ^ fl.fracBits = u + 1 := by exact_mod_cast hpow.symm.trans hu
      have hscale : (2 : ℝ) ^ (fl.eulp + ((i.succ : Nat) : Int)) = 2 * 2 ^ (fl.eulp + i) := by
        push_cast
        rw [← add_assoc, zpow_add_one₀ two_ne_zero]
        ring
      have hW' : (0 : ℝ) < 2 ^ (fl.eulp + i) := by positivity
      have hstrict : magReal fl (i * 2 ^ fl.fracBits + u) + magReal fl (i.succ * 2 ^ fl.fracBits + 2 ^ fl.fracBits) <
          2 * (y * 2 ^ (fl.eulp + ((i.succ : Nat) : Int))) := by
        rw [hself, hprev, hscale]
        push_cast
        nlinarith
      exact ⟨hstrict.le, fun heq => absurd heq hstrict.ne⟩
  · have habove := hint.above
    rcases hs.lt_or_eq with hlt | rfl
    · have hnext := magReal_field_add_le (fl := fl) (j := j) (s := s + 1) (hlo.imp_right (by omega)) hlt
      rw [add_assoc, hself, hnext]
      push_cast
      refine ⟨by nlinarith, fun heq => field_add_even j (hint.aboveEven ?_)⟩
      refine mul_right_cancel₀ hW.ne' ?_
      linarith
    · have hnext := magReal_field_add_le (fl := fl) (j := j + 1) (s := 2 ^ fl.fracBits + 1) (.inr (by omega)) (by omega)
      have hsum : j * 2 ^ fl.fracBits + 2 ^ (fl.fracBits + 1) + 1 =
          (j + 1) * 2 ^ fl.fracBits + (2 ^ fl.fracBits + 1) := by
        rw [hpow, add_mul]
        omega
      have hscale : (2 : ℝ) ^ (fl.eulp + ((j + 1 : Nat) : Int)) = 2 * 2 ^ (fl.eulp + j) := by
        push_cast
        rw [← add_assoc, zpow_add_one₀ two_ne_zero]
        ring
      have hstrict : 2 * (y * 2 ^ (fl.eulp + j)) < magReal fl (j * 2 ^ fl.fracBits + 2 ^ (fl.fracBits + 1)) +
          magReal fl (j * 2 ^ fl.fracBits + 2 ^ (fl.fracBits + 1) + 1) := by
        rw [hself, hsum, hnext, hscale]
        push_cast [hpow] at habove ⊢
        nlinarith
      exact ⟨hstrict.le, fun heq => absurd heq hstrict.ne⟩

/-- `roundMag` where bits are shifted out. -/
theorem roundMag_of_lt_ulp {fl : Flen} {m : Nat} {e : Int} (sticky : Bool) (hm : m ≠ 0) (h : e < roundUlp fl m e) :
    roundMag fl m e sticky = min ((roundUlp fl m e - fl.eulp).toNat * 2 ^ fl.fracBits +
      roundShift m (roundUlp fl m e - e).toNat sticky) fl.infMag := by
  rw [roundMag, if_neg hm]
  change min (_ + if roundUlp fl m e ≤ e then _ else _) _ = _
  rw [if_neg (not_le.2 h)]
  rfl

theorem rounds_zero (fl : Flen) : Rounds fl 0 0 := by
  have h0 : magReal fl 0 = 0 := by rw [magReal, magValue_zero, Rat.cast_zero]
  have h1 := magReal_strictMono fl (show 0 < 1 by decide)
  refine ⟨fun p hp => absurd hp (by omega), ?_, fun _ => rfl⟩
  rw [Nat.zero_add]
  linarith

/-- The rounding of the units is to nearest even: of `m` * 2^`e`, and, given more bits than the format keeps, of any
real just above it. -/
theorem roundMag_nearestEven {fl : Flen} {m : Nat} {e : Int} {sticky : Bool} {x : ℝ} (h : Sticks m e sticky x)
    (hbits : sticky = true → fl.fracBits < Nat.log2 m) : NearestEven fl x (roundMag fl m e sticky) := by
  by_cases hm : m = 0
  · cases sticky
    · obtain rfl : x = ((m : Nat) : ℝ) * 2 ^ e := h
      simpa [hm] using (rounds_zero fl).nearestEven
    · exact absurd (hbits rfl) (by simp [hm])
  have hulp : roundUlp fl m e = max ((Nat.log2 m : Int) + e - fl.fracBits) fl.eulp := rfl
  obtain ⟨j, hj⟩ := Int.eq_ofNat_of_zero_le (a := roundUlp fl m e - fl.eulp) (by omega)
  have hulpj : roundUlp fl m e = fl.eulp + j := by omega
  rcases le_or_gt (roundUlp fl m e) e with hle | hlt
  · have hexact : sticky = false := by
      by_contra hne
      have := hbits (by simpa using hne)
      omega
    subst hexact
    obtain ⟨t, ht⟩ := Int.eq_ofNat_of_zero_le (a := e - roundUlp fl m e) (by omega)
    rw [roundMag_of_ulp_le false hm hle, hj, ht, Int.toNat_natCast, Int.toNat_natCast]
    have hlo : j = 0 ∨ 2 ^ fl.fracBits ≤ m * 2 ^ t := by
      refine or_iff_not_imp_left.2 fun hj0 => ?_
      rw [show fl.fracBits = Nat.log2 m + t by omega]
      exact two_pow_log2_add_le hm t
    have hx : x = ((m * 2 ^ t : Nat) : ℝ) * 2 ^ (fl.eulp + j) := by
      obtain rfl : x = ((m : Nat) : ℝ) * 2 ^ e := h
      push_cast
      rw [mul_assoc, ← zpow_natCast (2 : ℝ) t, ← zpow_add₀ two_ne_zero]
      congr 2
      omega
    rw [hx]
    exact (rounds_field_add (roundsInt_natCast _) (mul_two_pow_lt (by omega)).le
      (hlo.imp_right fun h => by exact_mod_cast h)).nearestEven
  · obtain ⟨k, hk⟩ := Int.eq_ofNat_of_zero_le (a := roundUlp fl m e - e) (by omega)
    rw [roundMag_of_lt_ulp sticky hm hlt, hj, hk, Int.toNat_natCast, Int.toNat_natCast]
    have he : (2 : ℝ) ^ e * 2 ^ k = 2 ^ (fl.eulp + j) := by
      rw [← zpow_natCast (2 : ℝ) k, ← zpow_add₀ two_ne_zero]
      congr 1
      omega
    have hepos : (0 : ℝ) < 2 ^ e := by positivity
    have hkpos : (0 : ℝ) < 2 ^ k := by positivity
    obtain ⟨y, rfl⟩ : ∃ y, x = y * 2 ^ (fl.eulp + j) := ⟨x / 2 ^ (fl.eulp + j), by field_simp⟩
    rw [← he, ← mul_assoc, mul_right_comm] at h
    have hstick : Sticks m 0 sticky (y * 2 ^ k) := by
      unfold Sticks at h ⊢
      rw [zpow_zero, mul_one, mul_one]
      split at h
      · rw [if_pos ‹_›]
        exact ⟨lt_of_mul_lt_mul_right h.1 hepos.le, lt_of_mul_lt_mul_right h.2 hepos.le⟩
      · rw [if_neg ‹_›]
        exact mul_right_cancel₀ hepos.ne' h
    obtain ⟨hylo, hyhi⟩ := hstick.bounds
    rw [zpow_zero, mul_one] at hylo hyhi
    have hint := roundsInt_roundShift (by omega) hstick
    have hmhi : (m : ℝ) + 1 ≤ 2 ^ (fl.fracBits + 1) * 2 ^ k := by
      have h1 : m + 1 ≤ 2 ^ (Nat.log2 m + 1) := Nat.lt_log2_self
      have h2 : 2 ^ (Nat.log2 m + 1) ≤ 2 ^ (fl.fracBits + 1 + k) := Nat.pow_le_pow_right (by decide) (by omega)
      rw [← pow_add]
      exact_mod_cast h1.trans h2
    have hy : y < 2 ^ (fl.fracBits + 1) := lt_of_mul_lt_mul_right (hyhi.trans_le hmhi) hkpos.le
    have hs : roundShift m k sticky ≤ 2 ^ (fl.fracBits + 1) := by
      have hbelow := hint.below
      have : (2 : ℝ) * roundShift m k sticky < 2 * 2 ^ (fl.fracBits + 1) + 1 := by linarith
      have : 2 * roundShift m k sticky < 2 * 2 ^ (fl.fracBits + 1) + 1 := by exact_mod_cast this
      omega
    refine (rounds_field_add hint hs (or_iff_not_imp_left.2 fun hj0 => ?_)).nearestEven
    have hmlo : (2 : ℝ) ^ fl.fracBits * 2 ^ k ≤ m := by
      have h1 : 2 ^ Nat.log2 m ≤ m := Nat.log2_self_le hm
      rw [show Nat.log2 m = fl.fracBits + k by omega, pow_add] at h1
      exact_mod_cast h1
    exact le_of_mul_le_mul_right (hmlo.trans hylo) hkpos

/-- Settles O50: `roundMag_nearestEven` where no sticky bit is set. -/
theorem roundingIsToNearestEven : Obligations.RoundingIsToNearestEven :=
  fun _ _ _ => roundMag_nearestEven (sticky := false) rfl (by simp)

end Sys2Proof
end

section
/-! PROOFS. The arithmetic units and the comparisons (41_fp_units.md R85 to R91). -/

namespace Sys2Proof

/-! ### Values by class -/

theorem unpack_of_isNan {fl : Flen} {a : Comp} (h : isNan fl a = true) : unpack fl a = .nan :=
  if_pos (by simpa [isNan] using h)

theorem unpack_of_isInf {fl : Flen} {a : Comp} (h : isInf fl a = true) : unpack fl a = .inf (signOf fl a) := by
  have hmag : magOf fl a = fl.infMag := by simpa [isInf] using h
  simp [unpack, hmag]

/-- The value of a finite component, with its magnitude. -/
theorem unpack_finite {fl : Flen} {a : Comp} (h : isFinite fl a = true) :
    ∃ m e, unpack fl a = .fin (signOf fl a) m e ∧ valueOf fl a = finValue (signOf fl a) m e := by
  obtain ⟨m, e, hu, _⟩ := unpack_of_isFinite h
  exact ⟨m, e, hu, valueOf_of_unpack hu⟩

/-- A component that is not a NaN is infinite or finite. -/
theorem isInf_or_isFinite {fl : Flen} {a : Comp} (h : isNan fl a = false) :
    isInf fl a = true ∨ isFinite fl a = true := by
  simp only [isNan, isInf, isFinite, decide_eq_false_iff_not, decide_eq_true_eq, beq_iff_eq] at h ⊢
  omega

theorem isFinite_of_magOf_eq_zero {fl : Flen} {a : Comp} (h : magOf fl a = 0) : isFinite fl a = true := by
  rw [isFinite, h]
  exact decide_eq_true fl.infMag_pos

/-- A finite component has the significand 0 exactly if its magnitude bits are 0. -/
theorem unpack_fin_eq_zero_iff {fl : Flen} {a : Comp} {n : Bool} {m : Nat} {e : Int} (h : unpack fl a = .fin n m e) :
    m = 0 ↔ magOf fl a = 0 := by
  rcases unpack_cases fl a with ⟨_, hu⟩ | ⟨_, _, hu⟩ | ⟨_, _, _, m', e', hu, hm⟩ <;> rw [hu] at h <;> cases h
  exact hm

theorem signOf_finf (fl : Flen) (n : Bool) : signOf fl (finf fl n) = n := signOf_ofSignMag fl n fl.infMag_lt

theorem magOf_finf (fl : Flen) (n : Bool) : magOf fl (finf fl n) = fl.infMag := magOf_ofSignMag fl n fl.infMag_lt

theorem signOf_fzero (fl : Flen) (n : Bool) : signOf fl (fzero fl n) = n := signOf_ofSignMag fl n (by positivity)

theorem magOf_fzero (fl : Flen) (n : Bool) : magOf fl (fzero fl n) = 0 := magOf_ofSignMag fl n (by positivity)

/-- A result that `ofSignMag` puts together from a magnitude up to that of infinity reads back. -/
theorem signOf_magOf_ofSignMag {fl : Flen} (n : Bool) {k : Nat} (h : k ≤ fl.infMag) :
    signOf fl (ofSignMag fl n k) = n ∧ magOf fl (ofSignMag fl n k) = k :=
  ⟨signOf_ofSignMag fl n (h.trans_lt fl.infMag_lt), magOf_ofSignMag fl n (h.trans_lt fl.infMag_lt)⟩

/-- The float nearest to a finite value, given by its absolute value. -/
theorem roundFin_spec {fl : Flen} (n : Bool) {m : Nat} {e : Int} {v : ℚ} (hv : |v| = (m : ℚ) * 2 ^ e) :
    signOf fl (roundFin fl n m e) = n ∧ NearestEven fl |(v : ℝ)| (magOf fl (roundFin fl n m e)) := by
  obtain ⟨hsign, hmag⟩ := signOf_magOf_ofSignMag n (roundMag_le fl m e false)
  have hx : |(v : ℝ)| = (m : ℝ) * 2 ^ e := by
    rw [← Rat.cast_abs, hv]
    push_cast
    rfl
  rw [roundFin, hsign, hmag, hx]
  exact ⟨rfl, roundingIsToNearestEven fl m e⟩

/-! ### FADD (R85) -/

theorem fadd_of_nan_left {fl : Flen} (q : Comp) {a : Comp} (b : Comp) (h : isNan fl a = true) : fadd fl q a b = q := by
  rw [fadd, unpack_of_isNan h]

theorem fadd_of_nan_right {fl : Flen} (q a : Comp) {b : Comp} (h : isNan fl b = true) : fadd fl q a b = q := by
  rw [fadd_comm, fadd_of_nan_left q a h]

theorem fadd_of_inf_inf {fl : Flen} (q : Comp) {a b : Comp} (ha : isInf fl a = true) (hb : isInf fl b = true) :
    fadd fl q a b = if signOf fl a = signOf fl b then finf fl (signOf fl a) else q := by
  rw [fadd, unpack_of_isInf ha, unpack_of_isInf hb]

theorem fadd_of_inf_fin {fl : Flen} (q : Comp) {a b : Comp} (ha : isInf fl a = true) (hb : isFinite fl b = true) :
    fadd fl q a b = finf fl (signOf fl a) := by
  obtain ⟨m, e, hu, _⟩ := unpack_finite hb
  rw [fadd, unpack_of_isInf ha, hu]

theorem fadd_of_fin_inf {fl : Flen} (q : Comp) {a b : Comp} (ha : isFinite fl a = true) (hb : isInf fl b = true) :
    fadd fl q a b = finf fl (signOf fl b) := by
  rw [fadd_comm, fadd_of_inf_fin q hb ha]

/-- A value is the integer of its significand aligned to a smaller exponent, at that exponent. -/
theorem finValue_align (n : Bool) (m : Nat) {e e' : Int} (h : e' ≤ e) :
    finValue n m e = (signed n (m * 2 ^ (e - e').toNat) : ℚ) * 2 ^ e' := by
  obtain ⟨d, hd⟩ := Int.eq_ofNat_of_zero_le (Int.sub_nonneg_of_le h)
  have hpow : (2 : ℚ) ^ e = 2 ^ d * 2 ^ e' := by
    rw [← zpow_natCast, ← zpow_add₀ two_ne_zero]
    congr 1
    omega
  rw [finValue_eq, hd, Int.toNat_natCast, hpow]
  cases n <;> simp [signed, mul_assoc]

/-- The exact sum of two finite components as an integer at some exponent, and FADD as its rounding. -/
theorem fadd_of_finite {fl : Flen} (q : Comp) {a b : Comp} (ha : isFinite fl a = true) (hb : isFinite fl b = true) :
    ∃ (s e : Int), valueOf fl a + valueOf fl b = (s : ℚ) * 2 ^ e ∧
      fadd fl q a b = if s = 0 then fzero fl (signOf fl a && signOf fl b)
        else roundFin fl (decide (s < 0)) s.natAbs e := by
  obtain ⟨m1, e1, hu1, hv1⟩ := unpack_finite ha
  obtain ⟨m2, e2, hu2, hv2⟩ := unpack_finite hb
  refine ⟨signed (signOf fl a) (m1 * 2 ^ (e1 - min e1 e2).toNat) +
    signed (signOf fl b) (m2 * 2 ^ (e2 - min e1 e2).toNat), min e1 e2, ?_, ?_⟩
  · rw [hv1, hv2, finValue_align _ _ (min_le_left e1 e2), finValue_align _ _ (min_le_right e1 e2)]
    push_cast
    ring
  · rw [fadd, hu1, hu2]
    rfl

theorem intCast_mul_zpow_neg_iff (s e : Int) : (s : ℚ) * 2 ^ e < 0 ↔ s < 0 := by
  have hpos : (0 : ℚ) < 2 ^ e := by positivity
  rw [← Int.cast_lt_zero (R := ℚ)]
  constructor
  · intro h
    by_contra hs
    exact absurd h (not_lt.2 (mul_nonneg (not_lt.1 hs) hpos.le))
  · exact fun h => mul_neg_of_neg_of_pos h hpos

theorem abs_intCast_mul_zpow (s e : Int) : |(s : ℚ) * 2 ^ e| = (s.natAbs : ℚ) * 2 ^ e := by
  have hpos : (0 : ℚ) < 2 ^ e := by positivity
  rw [abs_mul, abs_of_pos hpos, Nat.cast_natAbs, Int.cast_abs]

/-- Settles O51: the special rows by class, the sum by `fadd_of_finite`. -/
theorem addRoundsExactSum : Obligations.AddRoundsExactSum := by
  intro fl q a b
  refine ⟨fun h => ?_, fun ha hb hne => ?_, fun ha hb hsame => ?_, fun hb ha => fadd_of_fin_inf q ha hb,
    fun ha hb hzero => ?_, fun ha hb hne => ?_⟩
  · rcases h with h | h
    · exact fadd_of_nan_left q b h
    · exact fadd_of_nan_right q a h
  · rw [fadd_of_inf_inf q ha hb, if_neg hne]
  · rcases isInf_or_isFinite hb with hb | hb
    · rw [fadd_of_inf_inf q ha hb, if_pos (hsame hb)]
    · exact fadd_of_inf_fin q ha hb
  · obtain ⟨s, e, hsum, hadd⟩ := fadd_of_finite q ha hb
    have hs : s = 0 := by
      rw [hsum, mul_eq_zero] at hzero
      exact_mod_cast hzero.resolve_right (by positivity)
    rw [hadd, if_pos hs]
  · obtain ⟨s, e, hsum, hadd⟩ := fadd_of_finite q ha hb
    have hs : s ≠ 0 := by
      rintro rfl
      exact hne (by rw [hsum, Int.cast_zero, zero_mul])
    rw [hadd, if_neg hs, hsum]
    obtain ⟨hsign, hnear⟩ := roundFin_spec (fl := fl) (decide (s < 0)) (abs_intCast_mul_zpow s e)
    exact ⟨hsign.trans (decide_eq_decide.2 (intCast_mul_zpow_neg_iff s e).symm), hnear⟩

/-! ### FMUL (R87) -/

theorem fmul_of_nan_left {fl : Flen} (q : Comp) {a : Comp} (b : Comp) (h : isNan fl a = true) : fmul fl q a b = q := by
  rw [fmul, unpack_of_isNan h]

theorem fmul_of_nan_right {fl : Flen} (q a : Comp) {b : Comp} (h : isNan fl b = true) : fmul fl q a b = q := by
  rw [fmul_comm, fmul_of_nan_left q a h]

/-- An infinity times a component that is not a NaN: NaN for a zero, else an infinity. -/
theorem fmul_of_inf_left {fl : Flen} (q : Comp) {a b : Comp} (ha : isInf fl a = true) (hb : isNan fl b = false) :
    fmul fl q a b = if magOf fl b = 0 then q else finf fl (signOf fl a != signOf fl b) := by
  rw [fmul, unpack_of_isInf ha]
  rcases isInf_or_isFinite hb with hb | hb
  · have hmag : magOf fl b = fl.infMag := by simpa [isInf] using hb
    rw [unpack_of_isInf hb, if_neg (by rw [hmag]; exact fl.infMag_pos.ne')]
  · obtain ⟨m, e, hu, _⟩ := unpack_finite hb
    rw [hu]
    exact if_congr (unpack_fin_eq_zero_iff hu) rfl rfl

theorem fmul_of_inf_right {fl : Flen} (q : Comp) {a b : Comp} (hb : isInf fl b = true) (ha : isNan fl a = false) :
    fmul fl q a b = if magOf fl a = 0 then q else finf fl (signOf fl a != signOf fl b) := by
  rw [fmul_comm, fmul_of_inf_left q hb ha, bne_comm]

/-- FMUL of finite components is the rounding of the exact product. -/
theorem fmul_of_finite {fl : Flen} (q : Comp) {a b : Comp} (ha : isFinite fl a = true) (hb : isFinite fl b = true) :
    ∃ (m : Nat) (e : Int), |valueOf fl a * valueOf fl b| = (m : ℚ) * 2 ^ e ∧
      fmul fl q a b = roundFin fl (signOf fl a != signOf fl b) m e := by
  obtain ⟨m1, e1, hu1, hv1⟩ := unpack_finite ha
  obtain ⟨m2, e2, hu2, hv2⟩ := unpack_finite hb
  refine ⟨m1 * m2, e1 + e2, ?_, ?_⟩
  · rw [hv1, hv2, abs_mul, abs_finValue, abs_finValue, zpow_add₀ two_ne_zero]
    push_cast
    ring
  · rw [fmul, hu1, hu2]

/-- Settles O52: the special rows by class, the product by `fmul_of_finite`. -/
theorem mulRoundsExactProduct : Obligations.MulRoundsExactProduct := by
  intro fl q a b
  refine ⟨fun h => ?_, fun h => ?_, fun h => ?_, fun ha hb => ?_⟩
  · rcases h with h | h
    · exact fmul_of_nan_left q b h
    · exact fmul_of_nan_right q a h
  · rcases h with ⟨ha, hb⟩ | ⟨ha, hb⟩
    · rw [fmul_of_inf_left q ha (isNan_of_isFinite (isFinite_of_magOf_eq_zero hb)), if_pos hb]
    · rw [fmul_of_inf_right q hb (isNan_of_isFinite (isFinite_of_magOf_eq_zero ha)), if_pos ha]
  · rcases h with ⟨ha, hb, hne⟩ | ⟨hb, ha, hne⟩
    · rw [fmul_of_inf_left q ha hb, if_neg hne]
    · rw [fmul_of_inf_right q hb ha, if_neg hne]
  · obtain ⟨m, e, hprod, hmul⟩ := fmul_of_finite q ha hb
    rw [hmul]
    exact roundFin_spec _ hprod

/-! ### FRCP (R88) -/

/-- The quotient that `roundQuot` takes has more bits than the format keeps. -/
theorem fracBits_lt_log2_quot (fl : Flen) {num den : Nat} (hnum : num ≠ 0) (hden : den ≠ 0) :
    fl.fracBits < Nat.log2 (num * 2 ^ (fl.fracBits + 4 + Nat.log2 den) / den) := by
  have hden' : den ≤ 2 ^ (Nat.log2 den + 1) := Nat.lt_log2_self.le
  have hle : 2 ^ (fl.fracBits + 1) ≤ num * 2 ^ (fl.fracBits + 4 + Nat.log2 den) / den := by
    rw [Nat.le_div_iff_mul_le (Nat.pos_of_ne_zero hden)]
    calc 2 ^ (fl.fracBits + 1) * den ≤ 2 ^ (fl.fracBits + 1) * 2 ^ (Nat.log2 den + 1) := Nat.mul_le_mul_left _ hden'
      _ = 2 ^ (fl.fracBits + 2 + Nat.log2 den) := by rw [← pow_add]; congr 1; omega
      _ ≤ 2 ^ (fl.fracBits + 4 + Nat.log2 den) := Nat.pow_le_pow_right (by decide) (by omega)
      _ ≤ num * 2 ^ (fl.fracBits + 4 + Nat.log2 den) := Nat.le_mul_of_pos_left _ (Nat.pos_of_ne_zero hnum)
  have hne : num * 2 ^ (fl.fracBits + 4 + Nat.log2 den) / den ≠ 0 :=
    (lt_of_lt_of_le (by positivity) hle).ne'
  exact (Nat.le_log2 hne).2 hle

/-- The quotient and its sticky bit stand for the exact quotient. -/
theorem sticks_quot (n : Nat) {den : Nat} (hden : den ≠ 0) (e : Int) :
    Sticks (n / den) e (n % den != 0) ((n : ℝ) / den * 2 ^ e) := by
  have hpos : (0 : ℝ) < 2 ^ e := by positivity
  have hd : (0 : ℝ) < den := by exact_mod_cast Nat.pos_of_ne_zero hden
  have hdiv : (n : ℝ) = den * (n / den : Nat) + (n % den : Nat) := by exact_mod_cast (Nat.div_add_mod n den).symm
  have hmod : ((n % den : Nat) : ℝ) < den := by exact_mod_cast Nat.mod_lt n (Nat.pos_of_ne_zero hden)
  unfold Sticks
  split
  case isTrue h =>
    have hrem : (0 : ℝ) < (n % den : Nat) := by
      exact_mod_cast Nat.pos_of_ne_zero (by simpa using h)
    refine ⟨mul_lt_mul_of_pos_right ?_ hpos, mul_lt_mul_of_pos_right ?_ hpos⟩
    · rw [lt_div_iff₀ hd]
      linarith
    · rw [div_lt_iff₀ hd]
      linarith
  case isFalse h =>
    have hrem : n % den = 0 := by simpa using h
    rw [hrem, Nat.cast_zero, add_zero] at hdiv
    rw [hdiv, mul_div_cancel_left₀ _ hd.ne']

/-- `roundQuot` is the correctly rounded quotient. -/
theorem roundQuot_nearestEven (fl : Flen) {num den : Nat} (hnum : num ≠ 0) (hden : den ≠ 0) (e : Int) :
    NearestEven fl ((num : ℝ) / den * 2 ^ e) (roundQuot fl num den e) := by
  have hsticks := sticks_quot (num * 2 ^ (fl.fracBits + 4 + Nat.log2 den)) hden
    (e - (fl.fracBits + 4 + Nat.log2 den : Nat))
  have hx : ((num * 2 ^ (fl.fracBits + 4 + Nat.log2 den) : Nat) : ℝ) / den *
      2 ^ (e - (fl.fracBits + 4 + Nat.log2 den : Nat)) = (num : ℝ) / den * 2 ^ e := by
    rw [zpow_sub₀ two_ne_zero, zpow_natCast]
    push_cast
    field_simp
  rw [hx] at hsticks
  exact roundMag_nearestEven hsticks fun _ => fracBits_lt_log2_quot fl hnum hden

theorem frcp_of_nan {fl : Flen} (q : Comp) {a : Comp} (h : isNan fl a = true) : frcp fl q a = q := by
  rw [frcp, unpack_of_isNan h]

theorem frcp_of_inf {fl : Flen} (q : Comp) {a : Comp} (h : isInf fl a = true) :
    frcp fl q a = fzero fl (signOf fl a) := by
  rw [frcp, unpack_of_isInf h]

theorem frcp_of_zero {fl : Flen} (q : Comp) {a : Comp} (h : magOf fl a = 0) : frcp fl q a = finf fl (signOf fl a) := by
  obtain ⟨m, e, hu, _⟩ := unpack_finite (isFinite_of_magOf_eq_zero h)
  rw [frcp, hu]
  exact if_pos ((unpack_fin_eq_zero_iff hu).2 h)

/-- A finite component that is not a zero: its reciprocal is the rounded exact quotient, with its sign. -/
theorem frcp_of_finite {fl : Flen} (q : Comp) {a : Comp} (h : isFinite fl a = true) (hne : magOf fl a ≠ 0) :
    ∃ r ≤ fl.infMag, frcp fl q a = ofSignMag fl (signOf fl a) r ∧ NearestEven fl |(((valueOf fl a)⁻¹ : ℚ) : ℝ)| r := by
  obtain ⟨m, e, hu, hv⟩ := unpack_finite h
  have hm : m ≠ 0 := fun h0 => hne ((unpack_fin_eq_zero_iff hu).1 h0)
  refine ⟨roundQuot fl 1 m (-e), roundQuot_le _ _ _ _, ?_, ?_⟩
  · rw [frcp, hu]
    exact if_neg hm
  · have hx : |(((valueOf fl a)⁻¹ : ℚ) : ℝ)| = ((1 : Nat) : ℝ) / m * 2 ^ (-e) := by
      rw [← Rat.cast_abs, abs_inv, hv, abs_finValue]
      push_cast
      rw [mul_inv, one_div, zpow_neg]
    rw [hx]
    exact roundQuot_nearestEven fl one_ne_zero hm (-e)

/-- The magnitude bits of infinity stand for 2^(EMAX+1). -/
theorem magValue_infMag (fl : Flen) : magValue fl fl.infMag = 2 ^ (fl.emax + 1) := by
  have hemax := fl.emax_pos
  obtain ⟨j, hj⟩ := Int.eq_ofNat_of_zero_le (a := 2 * fl.emax) (by omega)
  have hmag : fl.infMag = j * 2 ^ fl.fracBits + 2 ^ fl.fracBits := by
    have := fl.infMag_eq_mul
    rw [hj] at this
    zify
    rw [this]
    ring
  rw [hmag, magValue_field_add (.inr le_rfl) (Nat.pow_lt_pow_right (by decide) (by omega)), Nat.cast_pow,
    Nat.cast_ofNat, ← zpow_natCast, ← zpow_add₀ two_ne_zero]
  congr 1
  rw [Flen.eulp, Flen.emin]
  omega

theorem abs_valueOf_of_isFinite {fl : Flen} {a : Comp} (h : isFinite fl a = true) :
    |valueOf fl a| = magValue fl (magOf fl a) := by
  have hnonneg := magValue_nonneg fl (magOf fl a)
  rw [valueOf_of_isFinite h]
  split
  · rw [abs_neg, abs_of_nonneg hnonneg]
  · exact abs_of_nonneg hnonneg

theorem abs_valueOf_lt {fl : Flen} {a : Comp} (h : isFinite fl a = true) : |valueOf fl a| < 2 ^ (fl.emax + 1) := by
  rw [abs_valueOf_of_isFinite h, ← magValue_infMag]
  exact magValue_strictMono fl (by simpa [isFinite] using h)

theorem magValue_one (fl : Flen) : magValue fl 1 = 2 ^ fl.eulp := by
  have h := magValue_field_add (fl := fl) (j := 0) (s := 1) (.inl rfl) (Nat.one_lt_two_pow (by omega))
  simpa using h

/-- A real above half the smallest float does not round to zero. -/
theorem NearestEven.ne_zero {fl : Flen} {x : ℝ} {r : Nat} (h : NearestEven fl x r) (hx : magReal fl 1 < 2 * x) :
    r ≠ 0 := by
  rintro rfl
  rw [nearestEven_iff] at h
  obtain ⟨_, hall⟩ := h
  have h01 := magReal_strictMono fl (show 0 < 1 by decide)
  have h0 : magReal fl 0 = 0 := by rw [magReal, magValue_zero, Rat.cast_zero]
  have hnear := abs_sub_lt_of_mid_lt h01 (show magReal fl 0 + magReal fl 1 < 2 * x by linarith)
  rcases hall 1 fl.infMag_pos (by decide) with hlt | ⟨heq, _⟩ <;> linarith

/-- The reciprocal of a finite component is above half the smallest float. -/
theorem magReal_one_lt_reciprocal {fl : Flen} {a : Comp} (h : isFinite fl a = true) (hne : magOf fl a ≠ 0) :
    magReal fl 1 < 2 * |(((valueOf fl a)⁻¹ : ℚ) : ℝ)| := by
  have hpos : 0 < |valueOf fl a| := by
    rw [abs_valueOf_of_isFinite h, ← magValue_zero fl]
    exact magValue_strictMono fl (Nat.pos_of_ne_zero hne)
  have hsmall : (2 : ℚ) ^ fl.eulp ≤ 2 ^ (-(fl.emax + 1)) := by
    refine zpow_le_zpow_right₀ one_le_two ?_
    cases fl <;> decide
  have hinv : (2 : ℚ) ^ (-(fl.emax + 1)) ≤ |valueOf fl a|⁻¹ := by
    rw [zpow_neg]
    exact inv_anti₀ hpos (abs_valueOf_lt h).le
  have hle : magValue fl 1 < 2 * |(valueOf fl a)⁻¹| := by
    have hinv0 : 0 < |valueOf fl a|⁻¹ := inv_pos.2 hpos
    rw [magValue_one, abs_inv]
    linarith
  rw [magReal, ← Rat.cast_abs]
  exact_mod_cast hle

/-- The powers of two of the format, subnormal ones included. -/
theorem pow2Float_exact {fl : Flen} {k : Int} (hlo : fl.eulp ≤ k) (hhi : k ≤ fl.emax) :
    isFinite fl (pow2Float fl k) = true ∧ valueOf fl (pow2Float fl k) = 2 ^ k := by
  obtain ⟨hfin, hval⟩ := roundFin_exact (fl := fl) false (m := 1) (e := k) (Nat.one_lt_two_pow (by omega)) hlo
    (by rw [show Nat.log2 1 = 0 from rfl]; omega)
  refine ⟨hfin, hval.trans ?_⟩
  rw [finValue_eq]
  simp

theorem signOf_pow2Float (fl : Flen) (k : Int) : signOf fl (pow2Float fl k) = false :=
  (signOf_magOf_ofSignMag false (roundMag_le _ _ _ _)).1

theorem magOf_ne_zero_of_value {fl : Flen} {a : Comp} (h : isFinite fl a = true) (hv : valueOf fl a ≠ 0) :
    magOf fl a ≠ 0 := by
  intro h0
  have := abs_valueOf_of_isFinite h
  rw [h0, magValue_zero, abs_eq_zero] at this
  exact hv this

theorem frcp_pow2Float {fl : Flen} (q : Comp) {k : Int} (hlo : -fl.emax ≤ k) (hhi : k ≤ fl.emax) :
    frcp fl q (pow2Float fl k) = pow2Float fl (-k) := by
  have heulp : fl.eulp ≤ -fl.emax := by cases fl <;> decide
  obtain ⟨hfin, hval⟩ := pow2Float_exact (heulp.trans hlo) hhi
  have hne := magOf_ne_zero_of_value hfin (by rw [hval]; positivity)
  obtain ⟨r, _, hr, hnear⟩ := frcp_of_finite q hfin hne
  have hpow := roundingIsToNearestEven fl 1 (-k)
  have hx : |(((valueOf fl (pow2Float fl k))⁻¹ : ℚ) : ℝ)| = ((1 : Nat) : ℝ) * 2 ^ (-k) := by
    have hpos : (0 : ℝ) < 2 ^ (-k) := by positivity
    rw [hval, ← zpow_neg]
    push_cast
    rw [one_mul, abs_of_pos hpos]
  rw [hx] at hnear
  rw [hr, signOf_pow2Float, hnear.unique hpow]
  rfl

/-- Settles O53: the special rows by class, the quotient by `frcp_of_finite`. -/
theorem reciprocalIsCorrectlyRounded : Obligations.ReciprocalIsCorrectlyRounded := by
  intro fl q a
  refine ⟨frcp_of_nan q, frcp_of_zero q, frcp_of_inf q, fun k hlo hhi ha => ?_, fun h hne => ?_⟩
  · rw [ha, frcp_pow2Float q hlo hhi]
  · obtain ⟨r, hle, hr, hnear⟩ := frcp_of_finite q h hne
    obtain ⟨hsign, hmag⟩ := signOf_magOf_ofSignMag (signOf fl a) hle
    rw [hr, hsign, hmag]
    exact ⟨rfl, hnear.ne_zero (magReal_one_lt_reciprocal h hne), hnear⟩

/-! ### FSQRT (R89) -/

/-- Bit by bit from above, the search ends at the integer root. -/
theorem isqrtFrom_spec (v : Nat) : ∀ (b r : Nat), r * r ≤ v → v < (r + 2 ^ b) * (r + 2 ^ b) →
    isqrtFrom v b r * isqrtFrom v b r ≤ v ∧ v < (isqrtFrom v b r + 1) * (isqrtFrom v b r + 1)
  | 0, r, hlo, hhi => ⟨hlo, hhi⟩
  | b + 1, r, hlo, hhi => by
    rw [isqrtFrom]
    split
    case isTrue h =>
      refine isqrtFrom_spec v b _ h ?_
      rwa [add_assoc, ← two_mul, ← pow_succ']
    case isFalse h => exact isqrtFrom_spec v b r hlo (not_le.1 h)

theorem isqrt_spec (v : Nat) : isqrt v * isqrt v ≤ v ∧ v < (isqrt v + 1) * (isqrt v + 1) := by
  refine isqrtFrom_spec v _ 0 (by simp) ?_
  rw [Nat.zero_add, ← pow_add]
  exact Nat.lt_log2_self.trans_le (Nat.pow_le_pow_right (by decide) (by omega))

/-- The root and its sticky bit stand for the exact root. -/
theorem sticks_sqrt (v : Nat) (e : Int) :
    Sticks (isqrt v) e (isqrt v * isqrt v != v) (Real.sqrt v * 2 ^ e) := by
  have hpos : (0 : ℝ) < 2 ^ e := by positivity
  obtain ⟨hlo, hhi⟩ := isqrt_spec v
  unfold Sticks
  split
  case isTrue h =>
    have hne : isqrt v * isqrt v ≠ v := by simpa using h
    have hlt : (isqrt v : ℝ) * isqrt v < v := by exact_mod_cast lt_of_le_of_ne hlo hne
    have hgt : (v : ℝ) < (isqrt v + 1) * (isqrt v + 1) := by exact_mod_cast hhi
    refine ⟨mul_lt_mul_of_pos_right (Real.lt_sqrt_of_sq_lt ?_) hpos,
      mul_lt_mul_of_pos_right ((Real.sqrt_lt' (by positivity)).2 ?_) hpos⟩
    · rwa [pow_two]
    · rwa [pow_two]
  case isFalse h =>
    have heq : isqrt v * isqrt v = v := by simpa using h
    have hroot : Real.sqrt v = isqrt v := by
      rw [← heq]
      push_cast
      rw [Real.sqrt_mul_self (Nat.cast_nonneg _), heq]
    rw [hroot]

theorem fracBits_lt_log2_isqrt (fl : Flen) {v : Nat} (h : 4 ^ (fl.fracBits + 3) ≤ v) :
    fl.fracBits < Nat.log2 (isqrt v) := by
  obtain ⟨_, hhi⟩ := isqrt_spec v
  have hsq : 4 ^ (fl.fracBits + 3) = 2 ^ (fl.fracBits + 3) * 2 ^ (fl.fracBits + 3) :=
    mul_pow 2 2 _
  have hroot : 2 ^ (fl.fracBits + 3) ≤ isqrt v := by
    by_contra hlt
    have hle : isqrt v + 1 ≤ 2 ^ (fl.fracBits + 3) := not_le.1 hlt
    exact absurd (hhi.trans_le (Nat.mul_le_mul hle hle)) (not_lt.2 (hsq ▸ h))
  have hne : isqrt v ≠ 0 := (lt_of_lt_of_le (by positivity) hroot).ne'
  have := (Nat.le_log2 hne).2 hroot
  omega

/-- The integer whose root is taken: the significand at an even exponent, with enough bits. -/
def sqrtArg (fl : Flen) (m : Nat) (e : Int) : Nat := m * 2 ^ (e % 2).toNat * 4 ^ (fl.fracBits + 3)

/-- The exponent of its root. -/
def sqrtExp (fl : Flen) (e : Int) : Int := (e - (e % 2).toNat) / 2 - ((fl.fracBits : Int) + 3)

theorem sqrt_sqrtArg (fl : Flen) (m : Nat) (e : Int) :
    Real.sqrt (sqrtArg fl m e) * 2 ^ sqrtExp fl e = Real.sqrt ((m : ℝ) * 2 ^ e) := by
  have hh : sqrtExp fl e = (e - (e % 2).toNat) / 2 - ((fl.fracBits : Int) + 3) := rfl
  generalize sqrtExp fl e = h at hh
  have hpos : (0 : ℝ) ≤ 2 ^ h := by positivity
  have hexp : e = ((e % 2).toNat : Int) + 2 * ((fl.fracBits : Int) + 3) + (h + h) := by omega
  have harg : (sqrtArg fl m e : ℝ) * (2 ^ h * 2 ^ h) = (m : ℝ) * 2 ^ e := by
    have h4 : (4 : ℝ) ^ (fl.fracBits + 3) = 2 ^ (2 * ((fl.fracBits : Int) + 3)) := by
      rw [zpow_mul, zpow_ofNat, show ((fl.fracBits : Int) + 3) = ((fl.fracBits + 3 : Nat) : Int) by push_cast; rfl,
        zpow_natCast]
      norm_num
    conv_rhs => rw [hexp, zpow_add₀ two_ne_zero, zpow_add₀ two_ne_zero, zpow_add₀ two_ne_zero, zpow_natCast]
    rw [sqrtArg]
    push_cast
    rw [h4]
    ring
  rw [← harg, Real.sqrt_mul (Nat.cast_nonneg _), Real.sqrt_mul_self hpos]

theorem fsqrt_of_nan {fl : Flen} (q : Comp) {a : Comp} (h : isNan fl a = true) : fsqrt fl q a = q := by
  rw [fsqrt, unpack_of_isNan h]

theorem fsqrt_of_inf {fl : Flen} (q : Comp) {a : Comp} (h : isInf fl a = true) :
    fsqrt fl q a = if signOf fl a = true then q else finf fl false := by
  rw [fsqrt, unpack_of_isInf h]

theorem fsqrt_of_zero {fl : Flen} (q : Comp) {a : Comp} (h : magOf fl a = 0) :
    fsqrt fl q a = fzero fl (signOf fl a) := by
  obtain ⟨m, e, hu, _⟩ := unpack_finite (isFinite_of_magOf_eq_zero h)
  rw [fsqrt, hu]
  exact if_pos ((unpack_fin_eq_zero_iff hu).2 h)

theorem fsqrt_of_negative {fl : Flen} (q : Comp) {a : Comp} (h : isFinite fl a = true) (hne : magOf fl a ≠ 0)
    (hs : signOf fl a = true) : fsqrt fl q a = q := by
  obtain ⟨m, e, hu, _⟩ := unpack_finite h
  rw [fsqrt, hu, hs]
  exact if_neg fun h0 => hne ((unpack_fin_eq_zero_iff hu).1 h0)

/-- The root of a positive finite component is the rounded exact root. -/
theorem fsqrt_of_positive {fl : Flen} (q : Comp) {a : Comp} (h : isFinite fl a = true) (hne : magOf fl a ≠ 0)
    (hs : signOf fl a = false) :
    ∃ r ≤ fl.infMag, fsqrt fl q a = ofSignMag fl false r ∧ NearestEven fl (Real.sqrt (valueOf fl a : ℝ)) r := by
  obtain ⟨m, e, hu, hv⟩ := unpack_finite h
  have hm : m ≠ 0 := fun h0 => hne ((unpack_fin_eq_zero_iff hu).1 h0)
  refine ⟨roundMag fl (isqrt (sqrtArg fl m e)) (sqrtExp fl e)
    (isqrt (sqrtArg fl m e) * isqrt (sqrtArg fl m e) != sqrtArg fl m e), roundMag_le _ _ _ _, ?_,
    roundMag_nearestEven ?_ fun _ => ?_⟩
  · rw [fsqrt, hu, hs]
    exact if_neg hm
  · have hval : ((valueOf fl a : ℚ) : ℝ) = (m : ℝ) * 2 ^ e := by
      rw [hv, finValue_eq, hs]
      push_cast
      rfl
    rw [hval, ← sqrt_sqrtArg fl m e]
    exact sticks_sqrt _ _
  · exact fracBits_lt_log2_isqrt fl (Nat.le_mul_of_pos_left _ (by positivity))

/-- Settles O54: the special rows by class, the root by `fsqrt_of_positive`. -/
theorem squareRootIsCorrectlyRounded : Obligations.SquareRootIsCorrectlyRounded := by
  intro fl q a
  refine ⟨fsqrt_of_nan q, fsqrt_of_zero q, fun h hs => ?_, fun h hne hs => ?_, fun h hne hs => ?_⟩
  · rw [fsqrt_of_inf q h, hs]
    rfl
  · rcases isInf_or_isFinite h with h | h
    · rw [fsqrt_of_inf q h, if_pos hs]
    · exact fsqrt_of_negative q h hne hs
  · obtain ⟨r, hle, hr, hnear⟩ := fsqrt_of_positive q h hne hs
    obtain ⟨hsign, hmag⟩ := signOf_magOf_ofSignMag false hle
    rw [hr, hsign, hmag]
    exact ⟨rfl, hnear⟩

/-! ### Comparisons (R91) -/

/-- The number a sort key stands for. -/
def keyValue (fl : Flen) (k : Int) : ℚ := if k < 0 then -magValue fl k.natAbs else magValue fl k.natAbs

theorem keyValue_strictMono (fl : Flen) : StrictMono (keyValue fl) := by
  intro k k' h
  have hmono := magValue_strictMono fl
  have hnonneg := magValue_nonneg fl k'.natAbs
  rw [keyValue, keyValue]
  split
  case isTrue hk =>
    split
    · exact neg_lt_neg (hmono (by omega))
    · have hpos : 0 < magValue fl k.natAbs := by
        rw [← magValue_zero fl]
        exact hmono (by omega)
      linarith
  case isFalse hk =>
    rw [if_neg (by omega)]
    exact hmono (by omega)

theorem keyValue_natCast (fl : Flen) (m : Nat) : keyValue fl m = magValue fl m := by
  rw [keyValue, if_neg (by omega), Int.natAbs_natCast]

theorem keyValue_neg (fl : Flen) (k : Int) : keyValue fl (-k) = -keyValue fl k := by
  rcases lt_trichotomy k 0 with h | rfl | h
  · rw [keyValue, keyValue, if_neg (by omega), if_pos h, Int.natAbs_neg, neg_neg]
  · simp [keyValue]
  · rw [keyValue, keyValue, if_pos (by omega), if_neg (by omega), Int.natAbs_neg]

theorem keyValue_zero (fl : Flen) : keyValue fl 0 = 0 := by simp [keyValue]

/-- The value of a finite component is that of its sort key. -/
theorem valueOf_eq_keyValue {fl : Flen} {a : Comp} (h : isFinite fl a = true) :
    valueOf fl a = keyValue fl (sortKey fl a) := by
  rw [valueOf_of_isFinite h, sortKey, signed]
  split
  · rw [keyValue_neg, keyValue_natCast]
  · rw [keyValue_natCast]

theorem sortKey_of_isInf {fl : Flen} {a : Comp} (h : isInf fl a = true) :
    sortKey fl a = signed (signOf fl a) fl.infMag := by
  have hmag : magOf fl a = fl.infMag := by simpa [isInf] using h
  rw [sortKey, hmag]

theorem natAbs_sortKey_lt_infMag {fl : Flen} {a : Comp} (h : isFinite fl a = true) :
    (sortKey fl a).natAbs < fl.infMag := by
  rw [natAbs_sortKey]
  simpa [isFinite] using h

/-- On components that are not NaNs the order of values is the order of sort keys. -/
theorem FVal.lt_iff_sortKey {fl : Flen} {a b : Comp} (ha : isNan fl a = false) (hb : isNan fl b = false) :
    FVal.lt (unpack fl a) (unpack fl b) ↔ sortKey fl a < sortKey fl b := by
  have hpos := fl.infMag_pos
  rcases isInf_or_isFinite ha with ha | ha <;> rcases isInf_or_isFinite hb with hb | hb
  · rw [unpack_of_isInf ha, unpack_of_isInf hb, sortKey_of_isInf ha, sortKey_of_isInf hb, FVal.lt]
    cases signOf fl a <;> cases signOf fl b <;> simp [signed, hpos]
  · have hkey := natAbs_sortKey_lt_infMag hb
    obtain ⟨m, e, hu, _⟩ := unpack_finite hb
    rw [unpack_of_isInf ha, hu, sortKey_of_isInf ha, FVal.lt]
    cases signOf fl a <;> simp [signed] <;> omega
  · have hkey := natAbs_sortKey_lt_infMag ha
    obtain ⟨m, e, hu, _⟩ := unpack_finite ha
    rw [unpack_of_isInf hb, hu, sortKey_of_isInf hb, FVal.lt]
    cases signOf fl b <;> simp [signed] <;> omega
  · obtain ⟨m, e, hu, hv⟩ := unpack_finite ha
    obtain ⟨m', e', hu', hv'⟩ := unpack_finite hb
    rw [hu, hu', FVal.lt, ← hv, ← hv', valueOf_eq_keyValue ha, valueOf_eq_keyValue hb,
      (keyValue_strictMono fl).lt_iff_lt]

theorem FVal.same_iff_sortKey {fl : Flen} {a b : Comp} (ha : isNan fl a = false) (hb : isNan fl b = false) :
    FVal.same (unpack fl a) (unpack fl b) ↔ sortKey fl a = sortKey fl b := by
  have hpos := fl.infMag_pos
  rcases isInf_or_isFinite ha with ha | ha <;> rcases isInf_or_isFinite hb with hb | hb
  · rw [unpack_of_isInf ha, unpack_of_isInf hb, sortKey_of_isInf ha, sortKey_of_isInf hb, FVal.same]
    cases signOf fl a <;> cases signOf fl b <;> simp [signed] <;> omega
  · have hkey := natAbs_sortKey_lt_infMag hb
    obtain ⟨m, e, hu, _⟩ := unpack_finite hb
    rw [unpack_of_isInf ha, hu, sortKey_of_isInf ha, FVal.same]
    · cases signOf fl a <;> simp [signed] <;> omega
    all_goals simp
  · have hkey := natAbs_sortKey_lt_infMag ha
    obtain ⟨m, e, hu, _⟩ := unpack_finite ha
    rw [unpack_of_isInf hb, hu, sortKey_of_isInf hb, FVal.same]
    · cases signOf fl b <;> simp [signed] <;> omega
    all_goals simp
  · obtain ⟨m, e, hu, hv⟩ := unpack_finite ha
    obtain ⟨m', e', hu', hv'⟩ := unpack_finite hb
    rw [hu, hu', FVal.same, ← hv, ← hv', valueOf_eq_keyValue ha, valueOf_eq_keyValue hb,
      (keyValue_strictMono fl).injective.eq_iff]

theorem FVal.not_lt_nan (v : FVal) : ¬ FVal.lt v .nan ∧ ¬ FVal.lt .nan v ∧ ¬ FVal.same v .nan ∧ ¬ FVal.same .nan v := by
  cases v <;> simp [FVal.lt, FVal.same]

theorem flt_iff_sortKey {fl : Flen} {a b : Comp} (ha : isNan fl a = false) (hb : isNan fl b = false) :
    flt fl a b = true ↔ sortKey fl a < sortKey fl b := by simp [flt, ha, hb]

theorem feq_iff_sortKey {fl : Flen} {a b : Comp} (ha : isNan fl a = false) (hb : isNan fl b = false) :
    feq fl a b = true ↔ sortKey fl a = sortKey fl b := by simp [feq, ha, hb]

theorem fge_iff_sortKey {fl : Flen} {a b : Comp} (ha : isNan fl a = false) (hb : isNan fl b = false) :
    fge fl a b = true ↔ sortKey fl b ≤ sortKey fl a := by simp [fge, ha, hb]

/-- A comparison with a NaN is false. -/
theorem comparisons_of_nan {fl : Flen} {a b : Comp} (h : isNan fl a = true ∨ isNan fl b = true) :
    flt fl a b = false ∧ feq fl a b = false ∧ fge fl a b = false := by
  rcases h with h | h <;> simp [flt, feq, fge, h]

/-- Settles O55: a NaN is comparable to nothing on either side, and else both sides are the order of the sort keys. -/
theorem comparisonsAreExtendedRealOrder : Obligations.ComparisonsAreExtendedRealOrder := by
  intro fl a b
  by_cases hnan : isNan fl a = true ∨ isNan fl b = true
  · obtain ⟨hlt, heq, hge⟩ := comparisons_of_nan hnan
    have hgt : fgt fl a b = false := (comparisons_of_nan hnan.symm).1
    rw [hlt, heq, hge, hgt]
    rcases hnan with h | h
    · obtain ⟨h1, h2, h3, h4⟩ := FVal.not_lt_nan (unpack fl b)
      rw [unpack_of_isNan h]
      simp [h1, h2, h4]
    · obtain ⟨h1, h2, h3, h4⟩ := FVal.not_lt_nan (unpack fl a)
      rw [unpack_of_isNan h]
      simp [h1, h2, h3]
  · rw [not_or, Bool.not_eq_true, Bool.not_eq_true] at hnan
    obtain ⟨ha, hb⟩ := hnan
    rw [fgt, flt_iff_sortKey ha hb, flt_iff_sortKey hb ha, feq_iff_sortKey ha hb, fge_iff_sortKey ha hb,
      FVal.lt_iff_sortKey ha hb, FVal.lt_iff_sortKey hb ha, FVal.same_iff_sortKey ha hb, le_iff_lt_or_eq,
      eq_comm (a := sortKey fl b)]
    exact ⟨Iff.rfl, Iff.rfl, Iff.rfl, Iff.rfl⟩

end Sys2Proof
end

section
/-! PROOFS. The units FLOG2 and FEXP2 (41_fp_units.md R97, R98). -/

namespace Sys2Proof

/-! ### Keys and values -/

theorem sortKey_fzero (fl : Flen) (n : Bool) : sortKey fl (fzero fl n) = 0 := by
  rw [sortKey, magOf_fzero]
  cases signOf fl (fzero fl n) <;> rfl

theorem sortKey_zero (fl : Flen) : sortKey fl 0 = 0 := sortKey_fzero fl false

theorem sortKey_finf_false (fl : Flen) : sortKey fl (finf fl false) = fl.infMag := by
  rw [sortKey, signOf_finf, magOf_finf]
  rfl

theorem isInf_finf (fl : Flen) (n : Bool) : isInf fl (finf fl n) = true := by simp [isInf, magOf_finf]

theorem isNan_iff_natAbs (fl : Flen) (a : Comp) : isNan fl a = false ↔ (sortKey fl a).natAbs ≤ fl.infMag := by
  rw [natAbs_sortKey, isNan, decide_eq_false_iff_not, not_lt]

theorem isFinite_iff_natAbs (fl : Flen) (a : Comp) : isFinite fl a = true ↔ (sortKey fl a).natAbs < fl.infMag := by
  rw [natAbs_sortKey, isFinite, decide_eq_true_eq]

theorem isNan_zero (fl : Flen) : isNan fl 0 = false := by
  rw [isNan_iff_natAbs, sortKey_zero]
  exact Nat.zero_le _

theorem isNan_finf (fl : Flen) (n : Bool) : isNan fl (finf fl n) = false := isNan_of_isInf (isInf_finf fl n)

/-- Finite components compare by key as by value. -/
theorem sortKey_le_iff {fl : Flen} {a b : Comp} (ha : isFinite fl a = true) (hb : isFinite fl b = true) :
    sortKey fl a ≤ sortKey fl b ↔ valueOf fl a ≤ valueOf fl b := by
  rw [valueOf_eq_keyValue ha, valueOf_eq_keyValue hb, (keyValue_strictMono fl).le_iff_le]

theorem valueOf_pos_iff {fl : Flen} {a : Comp} (ha : isFinite fl a = true) : 0 < valueOf fl a ↔ 0 < sortKey fl a := by
  rw [valueOf_eq_keyValue ha, ← keyValue_zero fl, (keyValue_strictMono fl).lt_iff_lt]

/-- A key is positive exactly if the sign bit is clear and the magnitude is not 0. -/
theorem sortKey_pos_iff (fl : Flen) (a : Comp) : 0 < sortKey fl a ↔ signOf fl a = false ∧ magOf fl a ≠ 0 := by
  rw [sortKey, signed]
  cases signOf fl a
  · simp
    omega
  · simp

theorem sortKey_neg_iff (fl : Flen) (a : Comp) : sortKey fl a < 0 ↔ signOf fl a = true ∧ magOf fl a ≠ 0 := by
  rw [sortKey, signed]
  cases signOf fl a
  · simp
  · simp
    omega

/-! ### Powers of two around a number -/

theorem two_zpow_bracket_unique {v : ℚ} {k k' : Int} (hlo : (2 : ℚ) ^ k ≤ v) (hhi : v < 2 ^ (k + 1))
    (hlo' : (2 : ℚ) ^ k' ≤ v) (hhi' : v < 2 ^ (k' + 1)) : k = k' := by
  have h1 := (zpow_lt_zpow_iff_right₀ one_lt_two).1 (hlo.trans_lt hhi')
  have h2 := (zpow_lt_zpow_iff_right₀ one_lt_two).1 (hlo'.trans_lt hhi)
  omega

/-- `splitExp` is the exponent of the power of two at or below a number, and the number is this power exactly if the
significand is one (R99). -/
theorem splitExp_spec {m : Nat} (hm : m ≠ 0) (e : Int) :
    (2 : ℚ) ^ splitExp m e ≤ (m : ℚ) * 2 ^ e ∧ (m : ℚ) * 2 ^ e < 2 ^ (splitExp m e + 1) ∧
      ((m : ℚ) * 2 ^ e = 2 ^ splitExp m e ↔ m = 2 ^ Nat.log2 m) := by
  have hpos : (0 : ℚ) < 2 ^ e := by positivity
  have hlo : ((2 : ℚ) ^ Nat.log2 m) ≤ m := by exact_mod_cast Nat.log2_self_le hm
  have hhi : (m : ℚ) < 2 ^ (Nat.log2 m + 1) := by exact_mod_cast Nat.lt_log2_self (n := m)
  rw [splitExp, add_right_comm, zpow_add₀ two_ne_zero, zpow_add₀ two_ne_zero, zpow_natCast, ← Nat.cast_succ,
    zpow_natCast]
  refine ⟨mul_le_mul_of_nonneg_right hlo hpos.le, mul_lt_mul_of_pos_right hhi hpos, ?_⟩
  rw [mul_left_inj' hpos.ne']
  exact_mod_cast Iff.rfl

theorem valueOf_of_positive {fl : Flen} {a : Comp} {m : Nat} {e : Int} (hu : unpack fl a = .fin false m e) :
    valueOf fl a = (m : ℚ) * 2 ^ e := by
  rw [valueOf_of_unpack hu, finValue_eq]
  rfl

/-- The exponents of positive finite components. -/
theorem exponent_bounds {fl : Flen} {a : Comp} {k : Int} (ha : isFinite fl a = true) (hlo : (2 : ℚ) ^ k ≤ valueOf fl a)
    (hhi : valueOf fl a < 2 ^ (k + 1)) : fl.eulp ≤ k ∧ k ≤ fl.emax := by
  have hpos : (0 : ℚ) < valueOf fl a := lt_of_lt_of_le (by positivity) hlo
  have habs := abs_valueOf_lt ha
  have hmin : (2 : ℚ) ^ fl.eulp ≤ valueOf fl a := by
    rw [← abs_of_pos hpos, abs_valueOf_of_isFinite ha, ← magValue_one]
    exact (magValue_strictMono fl).monotone
      (Nat.pos_of_ne_zero (magOf_ne_zero_of_value ha hpos.ne'))
  rw [abs_of_pos hpos] at habs
  have h1 := (zpow_lt_zpow_iff_right₀ one_lt_two).1 (hmin.trans_lt hhi)
  have h2 := (zpow_lt_zpow_iff_right₀ one_lt_two).1 (hlo.trans_lt habs)
  omega

/-- The exponents of the format are floats. -/
theorem exponent_intFloat {fl : Flen} {k : Int} (hlo : fl.eulp ≤ k) (hhi : k ≤ fl.emax + 1) :
    isFinite fl (intFloat fl k) = true ∧ valueOf fl (intFloat fl k) = k := by
  apply intFloat_exact
  have h : fl.eulp.natAbs + (fl.emax + 1).natAbs < 2 ^ (fl.fracBits + 1) := by cases fl <;> decide
  omega

theorem exponent_intFloat_key_le {fl : Flen} {k k' : Int} (hlo : fl.eulp ≤ k) (h : k ≤ k') (hhi : k' ≤ fl.emax + 1) :
    sortKey fl (intFloat fl k) ≤ sortKey fl (intFloat fl k') := by
  obtain ⟨hfin, hval⟩ := exponent_intFloat hlo (h.trans hhi)
  obtain ⟨hfin', hval'⟩ := exponent_intFloat (hlo.trans h) hhi
  rw [sortKey_le_iff hfin hfin', hval, hval']
  exact_mod_cast h

/-! ### FLOG2 (R97) -/

/-- The key that the search answers for an inexact logarithm. -/
def log2Key (fl : Flen) (a : Comp) (k : Int) : Int :=
  boundedKey fl (Config.log2Raw fl) (sortKey fl (pow2Float fl k)) (sortKey fl (intFloat fl k))
    (sortKey fl (intFloat fl (k + 1))) (sortKey fl a)

theorem infMag_lt_two_pow (fl : Flen) {k : Int} (h : k.natAbs ≤ fl.infMag) : k.natAbs < 2 ^ (fl.bits - 1) :=
  h.trans_lt fl.infMag_lt

/-- An inexact logarithm is finite, with the key the search answers. -/
theorem log2Inexact_key {fl : Flen} (a : Comp) {k : Int} (hlo : fl.eulp ≤ k) (hhi : k ≤ fl.emax) :
    isFinite fl (log2Inexact fl a k) = true ∧ sortKey fl (log2Inexact fl a k) = log2Key fl a k := by
  obtain ⟨hfin, _⟩ := exponent_intFloat (fl := fl) (k := k) hlo (by omega)
  obtain ⟨hfin', _⟩ := exponent_intFloat (fl := fl) (k := k + 1) (by omega) (by omega)
  have hlt : (log2Key fl a k).natAbs < fl.infMag :=
    monotoneBelow_natAbs_lt _ _ _ ((isFinite_iff_natAbs fl _).1 hfin) ((isFinite_iff_natAbs fl _).1 hfin')
  have hkey : sortKey fl (log2Inexact fl a k) = log2Key fl a k := by
    change sortKey fl (if log2Key fl a k = 0 then _ else ofSortKey fl (log2Key fl a k)) = _
    split
    case isTrue h0 => rw [sortKey_fzero, h0]
    case isFalse => exact sortKey_ofSortKey fl (infMag_lt_two_pow fl hlt.le)
  exact ⟨(isFinite_iff_natAbs fl _).2 (by rwa [hkey]), hkey⟩

theorem log2Key_bounds {fl : Flen} (a : Comp) {k : Int} (hlo : fl.eulp ≤ k) (hhi : k ≤ fl.emax) :
    sortKey fl (intFloat fl k) ≤ log2Key fl a k ∧ log2Key fl a k ≤ sortKey fl (intFloat fl (k + 1)) :=
  monotoneBelow_bounds _ _ _ (exponent_intFloat_key_le hlo (by omega) (by omega))

theorem log2Key_mono {fl : Flen} {a b : Comp} {k : Int} (hlo : fl.eulp ≤ k) (hhi : k ≤ fl.emax)
    (h : sortKey fl a ≤ sortKey fl b) : log2Key fl a k ≤ log2Key fl b k :=
  monotoneBelow_mono _ _ (exponent_intFloat_key_le hlo (by omega) (by omega)) h

theorem flog2_of_nan {fl : Flen} (q : Comp) {a : Comp} (h : isNan fl a = true) : flog2 fl q a = q := by
  rw [flog2, unpack_of_isNan h]

theorem flog2_of_inf {fl : Flen} (q : Comp) {a : Comp} (h : isInf fl a = true) :
    flog2 fl q a = if signOf fl a = true then q else finf fl false := by
  rw [flog2, unpack_of_isInf h]

theorem flog2_of_zero {fl : Flen} (q : Comp) {a : Comp} (h : magOf fl a = 0) : flog2 fl q a = finf fl true := by
  obtain ⟨m, e, hu, _⟩ := unpack_finite (isFinite_of_magOf_eq_zero h)
  rw [flog2, hu]
  exact if_pos ((unpack_fin_eq_zero_iff hu).2 h)

theorem flog2_of_negative {fl : Flen} (q : Comp) {a : Comp} (h : isNan fl a = false) (hs : signOf fl a = true)
    (hne : magOf fl a ≠ 0) : flog2 fl q a = q := by
  rcases isInf_or_isFinite h with h | h
  · rw [flog2_of_inf q h, if_pos hs]
  · obtain ⟨m, e, hu, _⟩ := unpack_finite h
    rw [flog2, hu, hs]
    exact if_neg fun h0 => hne ((unpack_fin_eq_zero_iff hu).1 h0)

/-- The logarithm of a positive finite component: the exponent of the power of two at or below it if it is this
power, else an inexact value. -/
theorem flog2_of_positive {fl : Flen} (q : Comp) {a : Comp} (h : isFinite fl a = true) (hpos : 0 < valueOf fl a) :
    ∃ k : Int, (2 : ℚ) ^ k ≤ valueOf fl a ∧ valueOf fl a < 2 ^ (k + 1) ∧
      flog2 fl q a = if valueOf fl a = 2 ^ k then intFloat fl k else log2Inexact fl a k := by
  obtain ⟨hs, hne⟩ := (sortKey_pos_iff fl a).1 ((valueOf_pos_iff h).1 hpos)
  obtain ⟨m, e, hu, _⟩ := unpack_finite h
  rw [hs] at hu
  have hm : m ≠ 0 := fun h0 => hne ((unpack_fin_eq_zero_iff hu).1 h0)
  obtain ⟨hlo, hhi, hpow⟩ := splitExp_spec hm e
  rw [← valueOf_of_positive hu] at hlo hhi hpow
  refine ⟨splitExp m e, hlo, hhi, ?_⟩
  rw [flog2, hu]
  exact (if_neg hm).trans ((if_neg Bool.false_ne_true).trans (if_congr hpow.symm rfl rfl))

/-- The logarithm of a positive finite component is finite, between the exponents around it. -/
theorem flog2_bracket {fl : Flen} (q : Comp) {a : Comp} {k : Int} (h : isFinite fl a = true)
    (hlo : (2 : ℚ) ^ k ≤ valueOf fl a) (hhi : valueOf fl a < 2 ^ (k + 1)) :
    isFinite fl (flog2 fl q a) = true ∧ sortKey fl (intFloat fl k) ≤ sortKey fl (flog2 fl q a) ∧
      sortKey fl (flog2 fl q a) ≤ sortKey fl (intFloat fl (k + 1)) := by
  obtain ⟨k', hlo', hhi', hlog⟩ := flog2_of_positive q h (lt_of_lt_of_le (by positivity) hlo)
  obtain rfl := two_zpow_bracket_unique hlo hhi hlo' hhi'
  obtain ⟨hkLo, hkHi⟩ := exponent_bounds h hlo hhi
  rw [hlog]
  split
  · exact ⟨(exponent_intFloat hkLo (by omega)).1, le_rfl,
      exponent_intFloat_key_le hkLo (by omega) (by omega)⟩
  · obtain ⟨hfin, hkey⟩ := log2Inexact_key a hkLo hkHi
    rw [hkey]
    exact ⟨hfin, log2Key_bounds a hkLo hkHi⟩

theorem flog2_of_two_zpow {fl : Flen} (q : Comp) {a : Comp} {k : Int} (h : isFinite fl a = true)
    (hv : valueOf fl a = (2 : ℚ) ^ k) : flog2 fl q a = intFloat fl k := by
  have hhi : valueOf fl a < (2 : ℚ) ^ (k + 1) := by
    rw [hv]
    exact zpow_lt_zpow_right₀ one_lt_two (by omega)
  obtain ⟨k', hlo', hhi', hlog⟩ := flog2_of_positive q h (by rw [hv]; positivity)
  obtain rfl := two_zpow_bracket_unique hv.ge hhi hlo' hhi'
  rw [hlog, if_pos hv]

/-- The logarithms of positive finite components keep their order. -/
theorem flog2_mono_of_finite {fl : Flen} (q : Comp) {a b : Comp} (ha : isFinite fl a = true)
    (hb : isFinite fl b = true) (hpos : 0 < valueOf fl a) (hab : valueOf fl a ≤ valueOf fl b) :
    sortKey fl (flog2 fl q a) ≤ sortKey fl (flog2 fl q b) := by
  obtain ⟨k, hlo, hhi, hlog⟩ := flog2_of_positive q ha hpos
  obtain ⟨k', hlo', hhi', hlog'⟩ := flog2_of_positive q hb (hpos.trans_le hab)
  obtain ⟨_, _, hkey⟩ := flog2_bracket q ha hlo hhi
  obtain ⟨_, hkey', _⟩ := flog2_bracket q hb hlo' hhi'
  obtain ⟨hkLo, hkHi⟩ := exponent_bounds ha hlo hhi
  obtain ⟨_, hkHi'⟩ := exponent_bounds hb hlo' hhi'
  have hkk' : k < k' + 1 := (zpow_lt_zpow_iff_right₀ one_lt_two).1 (hlo.trans_lt (hab.trans_lt hhi'))
  rcases (Int.lt_add_one_iff.1 hkk').lt_or_eq with hlt | rfl
  · exact hkey.trans ((exponent_intFloat_key_le (by omega) hlt (by omega)).trans hkey')
  by_cases hexact : valueOf fl a = 2 ^ k
  · rw [hlog, if_pos hexact]
    exact hkey'
  · have hexact' : valueOf fl b ≠ 2 ^ k := ((lt_of_le_of_ne hlo (Ne.symm hexact)).trans_le hab).ne'
    rw [hlog, hlog', if_neg hexact, if_neg hexact', (log2Inexact_key a hkLo hkHi).2, (log2Inexact_key b hkLo hkHi).2]
    exact log2Key_mono hkLo hkHi ((sortKey_le_iff ha hb).2 hab)

/-- Logarithms of positive components are never NaN, and keep the order of the components. -/
theorem flog2_mono {fl : Flen} (q : Comp) {a b : Comp} (ha : isNan fl a = false) (hb : isNan fl b = false)
    (hpos : 0 < sortKey fl a) (hab : sortKey fl a ≤ sortKey fl b) :
    isNan fl (flog2 fl q a) = false ∧ isNan fl (flog2 fl q b) = false ∧
      sortKey fl (flog2 fl q a) ≤ sortKey fl (flog2 fl q b) := by
  have hinf {c : Comp} (hc : isInf fl c = true) (hcpos : 0 < sortKey fl c) : flog2 fl q c = finf fl false := by
    rw [flog2_of_inf q hc, ((sortKey_pos_iff fl c).1 hcpos).1]
    rfl
  have hfin {c : Comp} (hc : isFinite fl c = true) (hcpos : 0 < sortKey fl c) :
      isFinite fl (flog2 fl q c) = true := by
    obtain ⟨k, hlo, hhi, _⟩ := flog2_of_positive q hc ((valueOf_pos_iff hc).2 hcpos)
    exact (flog2_bracket q hc hlo hhi).1
  have hbpos := hpos.trans_le hab
  rcases isInf_or_isFinite hb with hb | hb
  · rw [hinf hb hbpos, sortKey_finf_false]
    refine ⟨?_, isNan_finf fl false, ?_⟩
    all_goals rcases isInf_or_isFinite ha with ha | ha
    · rw [hinf ha hpos, isNan_finf]
    · exact isNan_of_isFinite (hfin ha hpos)
    · rw [hinf ha hpos, sortKey_finf_false]
    · have := (isFinite_iff_natAbs fl _).1 (hfin ha hpos)
      omega
  · have ha : isFinite fl a = true := by
      rw [isFinite_iff_natAbs] at hb ⊢
      omega
    exact ⟨isNan_of_isFinite (hfin ha hpos), isNan_of_isFinite (hfin hb hbpos),
      flog2_mono_of_finite q ha hb ((valueOf_pos_iff ha).2 hpos) ((sortKey_le_iff ha hb).1 hab)⟩

theorem isNan_of_flt {fl : Flen} {a b : Comp} (h : flt fl a b = true) : isNan fl a = false ∧ isNan fl b = false := by
  by_contra hne
  have hnan : isNan fl a = true ∨ isNan fl b = true := by
    rw [not_and_or, Bool.not_eq_false, Bool.not_eq_false] at hne
    exact hne
  rw [(comparisons_of_nan hnan).1] at h
  cases h

theorem isNan_of_fge {fl : Flen} {a b : Comp} (h : fge fl a b = true) : isNan fl a = false ∧ isNan fl b = false := by
  by_contra hne
  have hnan : isNan fl a = true ∨ isNan fl b = true := by
    rw [not_and_or, Bool.not_eq_false, Bool.not_eq_false] at hne
    exact hne
  rw [(comparisons_of_nan hnan).2.2] at h
  cases h

/-- Settles O57: special values by class, the others by the bracket and the order of `flog2`. -/
theorem log2UnitProperties : Obligations.Log2UnitProperties := by
  intro fl q hq
  refine ⟨fun a h => ?nan, fun a => flog2_of_zero q, fun a h hs => ?inf, fun a h => ?negative, fun a k h hv => ?exact,
    fun a k h hlo hhi => ?bracket, fun a b ha hab => ?mono⟩
  case nan => rwa [flog2_of_nan q h]
  case inf =>
    rw [flog2_of_inf q h, hs]
    rfl
  case negative =>
    obtain ⟨ha, h0⟩ := isNan_of_flt h
    rw [flt_iff_sortKey ha h0, sortKey_zero, sortKey_neg_iff] at h
    rwa [flog2_of_negative q ha h.1 h.2]
  case exact =>
    have hhi : valueOf fl a < (2 : ℚ) ^ (k + 1) := by
      rw [hv]
      exact zpow_lt_zpow_right₀ one_lt_two (by omega)
    obtain ⟨hkLo, hkHi⟩ := exponent_bounds h hv.ge hhi
    rw [flog2_of_two_zpow q h hv]
    exact ⟨rfl, exponent_intFloat hkLo (by omega)⟩
  case bracket =>
    obtain ⟨hkLo, hkHi⟩ := exponent_bounds h hlo.le hhi
    obtain ⟨hfin, hkey, hkey'⟩ := flog2_bracket q h hlo.le hhi
    obtain ⟨hfinLo, hvalLo⟩ := exponent_intFloat (fl := fl) (k := k) hkLo (by omega)
    obtain ⟨hfinHi, hvalHi⟩ := exponent_intFloat (fl := fl) (k := k + 1) (by omega) (by omega)
    rw [sortKey_le_iff hfinLo hfin, hvalLo] at hkey
    rw [sortKey_le_iff hfin hfinHi, hvalHi] at hkey'
    push_cast at hkey'
    exact ⟨hfin, hkey, hkey'⟩
  case mono =>
    obtain ⟨_, hna⟩ := isNan_of_flt ha
    obtain ⟨hnb, _⟩ := isNan_of_fge hab
    rw [flt_iff_sortKey (isNan_zero fl) hna, sortKey_zero] at ha
    rw [fge_iff_sortKey hnb hna] at hab
    obtain ⟨hla, hlb, hle⟩ := flog2_mono q hna hnb ha hab
    exact (fge_iff_sortKey hlb hla).2 hle

/-! ### FEXP2 (R98) -/

theorem pow2Float_above (fl : Flen) : pow2Float fl (fl.emax + 1) = finf fl false := by cases fl <;> decide

/-- The keys of the powers of two rise, up to infinity at EMAX + 1. -/
theorem pow2Float_key_le {fl : Flen} {k k' : Int} (hlo : fl.eulp ≤ k) (h : k ≤ k') (hhi : k' ≤ fl.emax + 1) :
    sortKey fl (pow2Float fl k) ≤ sortKey fl (pow2Float fl k') := by
  rcases h.lt_or_eq with hlt | rfl
  swap
  · exact le_rfl
  obtain ⟨hfin, hval⟩ := pow2Float_exact (fl := fl) hlo (by omega)
  rcases hhi.lt_or_eq with hhi | rfl
  · obtain ⟨hfin', hval'⟩ := pow2Float_exact (fl := fl) (hlo.trans h) (by omega)
    rw [sortKey_le_iff hfin hfin', hval, hval']
    exact zpow_le_zpow_right₀ one_le_two h
  · have := (isFinite_iff_natAbs fl _).1 hfin
    rw [pow2Float_above, sortKey_finf_false]
    omega

theorem pow2Float_key_nonneg (fl : Flen) (k : Int) : 0 ≤ sortKey fl (pow2Float fl k) := by
  rw [sortKey, signOf_pow2Float]
  exact Int.natCast_nonneg _

theorem pow2Float_key_natAbs_le (fl : Flen) (k : Int) : (sortKey fl (pow2Float fl k)).natAbs ≤ fl.infMag := by
  rw [natAbs_sortKey, pow2Float, roundFin, (signOf_magOf_ofSignMag false (roundMag_le _ _ _ _)).2]
  exact roundMag_le _ _ _ _

/-- The key that the search answers for an inexact power. -/
def exp2Key (fl : Flen) (a : Comp) (f : Int) : Int :=
  boundedKey fl (Config.exp2Raw fl) (sortKey fl (intFloat fl f)) (sortKey fl (pow2Float fl f))
    (sortKey fl (pow2Float fl (f + 1))) (sortKey fl a)

theorem exp2Inexact_key (fl : Flen) (a : Comp) (f : Int) :
    isNan fl (exp2Inexact fl a f) = false ∧ sortKey fl (exp2Inexact fl a f) = exp2Key fl a f := by
  have hle : (exp2Key fl a f).natAbs ≤ fl.infMag :=
    Nat.lt_succ_iff.1 (monotoneBelow_natAbs_lt _ _ _ (Nat.lt_succ_of_le (pow2Float_key_natAbs_le fl f))
      (Nat.lt_succ_of_le (pow2Float_key_natAbs_le fl (f + 1))))
  have hkey : sortKey fl (exp2Inexact fl a f) = exp2Key fl a f := sortKey_ofSortKey fl (infMag_lt_two_pow fl hle)
  exact ⟨(isNan_iff_natAbs fl _).2 (by rwa [hkey]), hkey⟩

theorem eulp_le_emin (fl : Flen) : fl.eulp ≤ fl.emin := by cases fl <;> decide

theorem exp2Key_bounds {fl : Flen} (a : Comp) {f : Int} (hlo : fl.emin ≤ f) (hhi : f ≤ fl.emax) :
    sortKey fl (pow2Float fl f) ≤ exp2Key fl a f ∧ exp2Key fl a f ≤ sortKey fl (pow2Float fl (f + 1)) :=
  monotoneBelow_bounds _ _ _ (pow2Float_key_le ((eulp_le_emin fl).trans hlo) (by omega) (by omega))

theorem exp2Key_mono {fl : Flen} {a b : Comp} {f : Int} (hlo : fl.emin ≤ f) (hhi : f ≤ fl.emax)
    (h : sortKey fl a ≤ sortKey fl b) : exp2Key fl a f ≤ exp2Key fl b f :=
  monotoneBelow_mono _ _ (pow2Float_key_le ((eulp_le_emin fl).trans hlo) (by omega) (by omega)) h

theorem fexp2_of_nan {fl : Flen} (q : Comp) {a : Comp} (h : isNan fl a = true) : fexp2 fl q a = q := by
  rw [fexp2, unpack_of_isNan h]

theorem fexp2_of_inf {fl : Flen} (q : Comp) {a : Comp} (h : isInf fl a = true) :
    fexp2 fl q a = if signOf fl a = true then 0 else finf fl false := by
  rw [fexp2, unpack_of_isInf h]
  rfl

/-- FEXP2 of a finite component, by the floor of its value. -/
theorem fexp2_of_finite {fl : Flen} (q : Comp) {a : Comp} (h : isFinite fl a = true) :
    fexp2 fl q a = if fl.emax < ⌊valueOf fl a⌋ then finf fl false else if ⌊valueOf fl a⌋ < fl.emin then 0
      else if ((⌊valueOf fl a⌋ : Int) : ℚ) = valueOf fl a then pow2Float fl ⌊valueOf fl a⌋
      else exp2Inexact fl a ⌊valueOf fl a⌋ := by
  obtain ⟨m, e, hu, hv⟩ := unpack_finite h
  simp only [fexp2, hu, hv, isIntegral_iff_floor_eq (signOf fl a), floorInt_eq_floor]
  rfl

/-- Inside the range of exponents, FEXP2 is no NaN and lies between the powers of two around it. -/
theorem fexp2_bracket {fl : Flen} (q : Comp) {a : Comp} (h : isFinite fl a = true) (hlo : fl.emin ≤ ⌊valueOf fl a⌋)
    (hhi : ⌊valueOf fl a⌋ ≤ fl.emax) :
    isNan fl (fexp2 fl q a) = false ∧ sortKey fl (pow2Float fl ⌊valueOf fl a⌋) ≤ sortKey fl (fexp2 fl q a) ∧
      sortKey fl (fexp2 fl q a) ≤ sortKey fl (pow2Float fl (⌊valueOf fl a⌋ + 1)) := by
  rw [fexp2_of_finite q h, if_neg (not_lt.2 hhi), if_neg (not_lt.2 hlo)]
  split
  · exact ⟨(isNan_iff_natAbs fl _).2 (pow2Float_key_natAbs_le fl _), le_rfl,
      pow2Float_key_le ((eulp_le_emin fl).trans hlo) (by omega) (by omega)⟩
  · obtain ⟨hnan, hkey⟩ := exp2Inexact_key fl a ⌊valueOf fl a⌋
    rw [hkey]
    exact ⟨hnan, exp2Key_bounds a hlo hhi⟩

/-- FEXP2 of a component that is not a NaN is no NaN, and not negative. -/
theorem fexp2_key_nonneg {fl : Flen} (q : Comp) {a : Comp} (h : isNan fl a = false) :
    isNan fl (fexp2 fl q a) = false ∧ 0 ≤ sortKey fl (fexp2 fl q a) := by
  have hzero : isNan fl (0 : Comp) = false ∧ 0 ≤ sortKey fl 0 := ⟨isNan_zero fl, (sortKey_zero fl).ge⟩
  have hinf : isNan fl (finf fl false) = false ∧ 0 ≤ sortKey fl (finf fl false) :=
    ⟨isNan_finf fl false, by rw [sortKey_finf_false]; exact Int.natCast_nonneg _⟩
  rcases isInf_or_isFinite h with h | h
  · rw [fexp2_of_inf q h]
    split
    · exact hzero
    · exact hinf
  · rcases lt_or_ge fl.emax ⌊valueOf fl a⌋ with hhi | hhi
    · rwa [fexp2_of_finite q h, if_pos hhi]
    rcases lt_or_ge ⌊valueOf fl a⌋ fl.emin with hlo | hlo
    · rwa [fexp2_of_finite q h, if_neg (not_lt.2 hhi), if_pos hlo]
    · obtain ⟨hnan, hkey, _⟩ := fexp2_bracket q h hlo hhi
      exact ⟨hnan, (pow2Float_key_nonneg fl _).trans hkey⟩

/-- The powers of finite components keep their order. -/
theorem fexp2_mono_of_finite {fl : Flen} (q : Comp) {a b : Comp} (ha : isFinite fl a = true)
    (hb : isFinite fl b = true) (hab : valueOf fl a ≤ valueOf fl b) :
    sortKey fl (fexp2 fl q a) ≤ sortKey fl (fexp2 fl q b) := by
  obtain ⟨hna, _⟩ := fexp2_key_nonneg q (isNan_of_isFinite ha)
  obtain ⟨_, hbpos⟩ := fexp2_key_nonneg q (isNan_of_isFinite hb)
  have hfloor : ⌊valueOf fl a⌋ ≤ ⌊valueOf fl b⌋ := Int.floor_mono hab
  rcases lt_or_ge fl.emax ⌊valueOf fl b⌋ with hhi | hhi
  · have := (isNan_iff_natAbs fl _).1 hna
    rw [fexp2_of_finite q hb, if_pos hhi, sortKey_finf_false]
    omega
  rcases lt_or_ge ⌊valueOf fl a⌋ fl.emin with hlo | hlo
  · rwa [fexp2_of_finite q ha, if_neg (by omega), if_pos hlo, sortKey_zero]
  obtain ⟨_, hkeyLo, hkey⟩ := fexp2_bracket q ha hlo (hfloor.trans hhi)
  obtain ⟨_, hkey', _⟩ := fexp2_bracket q hb (hlo.trans hfloor) hhi
  have heulp := eulp_le_emin fl
  rcases hfloor.lt_or_eq with hlt | heq
  · exact hkey.trans ((pow2Float_key_le (by omega) hlt (by omega)).trans hkey')
  by_cases hexact : ((⌊valueOf fl a⌋ : Int) : ℚ) = valueOf fl a
  · rw [fexp2_of_finite q ha, if_neg (by omega), if_neg (by omega), if_pos hexact, heq]
    exact hkey'
  · have hexact' : ((⌊valueOf fl b⌋ : Int) : ℚ) ≠ valueOf fl b := by
      rw [← heq]
      exact ((lt_of_le_of_ne (Int.floor_le _) hexact).trans_le hab).ne
    rw [fexp2_of_finite q ha, fexp2_of_finite q hb, if_neg (by omega), if_neg (by omega), if_neg hexact,
      if_neg (by omega), if_neg (by omega), if_neg hexact', (exp2Inexact_key fl _ _).2,
      (exp2Inexact_key fl _ _).2, ← heq]
    exact exp2Key_mono hlo (hfloor.trans hhi) ((sortKey_le_iff ha hb).2 hab)

/-- FEXP2 keeps the order of components that are not NaNs. -/
theorem fexp2_mono {fl : Flen} (q : Comp) {a b : Comp} (ha : isNan fl a = false) (hb : isNan fl b = false)
    (hab : sortKey fl a ≤ sortKey fl b) : sortKey fl (fexp2 fl q a) ≤ sortKey fl (fexp2 fl q b) := by
  obtain ⟨hna, _⟩ := fexp2_key_nonneg q ha
  obtain ⟨_, hbpos⟩ := fexp2_key_nonneg q hb
  have hle := (isNan_iff_natAbs fl _).1 hna
  have hpos := fl.infMag_pos
  rcases isInf_or_isFinite ha with ha | ha
  · cases hs : signOf fl a with
    | true => rwa [fexp2_of_inf q ha, if_pos hs, sortKey_zero]
    | false =>
      have hka : sortKey fl a = fl.infMag := by rw [sortKey_of_isInf ha, hs]; rfl
      have hkb := (isNan_iff_natAbs fl _).1 hb
      obtain ⟨hsb, _⟩ := (sortKey_pos_iff fl b).1 (by omega)
      have hbinf : isInf fl b = true := by
        rw [natAbs_sortKey] at hkb
        have := natAbs_sortKey fl b
        rw [isInf, beq_iff_eq]
        omega
      rw [fexp2_of_inf q hbinf, hsb, if_neg Bool.false_ne_true, sortKey_finf_false]
      omega
  · rcases isInf_or_isFinite hb with hb | hb
    · have hka := (isFinite_iff_natAbs fl _).1 ha
      have hsb : signOf fl b = false := by
        by_contra hs
        rw [Bool.not_eq_false] at hs
        have hkb : sortKey fl b = -(fl.infMag : Int) := by rw [sortKey_of_isInf hb, hs]; rfl
        omega
      rw [fexp2_of_inf q hb, hsb, if_neg Bool.false_ne_true, sortKey_finf_false]
      omega
    · exact fexp2_mono_of_finite q ha hb ((sortKey_le_iff ha hb).1 hab)

/-- FEXP2 of an integral value in the range of exponents. -/
theorem fexp2_of_int {fl : Flen} (q : Comp) {a : Comp} {k : Int} (h : isFinite fl a = true)
    (hv : valueOf fl a = k) (hlo : fl.emin ≤ k) (hhi : k ≤ fl.emax) : fexp2 fl q a = pow2Float fl k := by
  rw [fexp2_of_finite q h, hv, Int.floor_intCast, if_neg (not_lt.2 hhi), if_neg (not_lt.2 hlo), if_pos rfl]

theorem fexp2_of_large {fl : Flen} (q : Comp) {a : Comp} (h : isFinite fl a = true)
    (hv : (fl.emax : ℚ) + 1 ≤ valueOf fl a) : fexp2 fl q a = finf fl false := by
  have hfloor : fl.emax + 1 ≤ ⌊valueOf fl a⌋ := Int.le_floor.2 (by push_cast; exact hv)
  rw [fexp2_of_finite q h, if_pos (by omega)]

theorem fexp2_of_small {fl : Flen} (q : Comp) {a : Comp} (h : isFinite fl a = true)
    (hv : valueOf fl a < (fl.emin : ℚ)) : fexp2 fl q a = 0 := by
  have hfloor : ⌊valueOf fl a⌋ < fl.emin := Int.floor_lt.2 hv
  have hrange : fl.emin ≤ fl.emax := by cases fl <;> decide
  rw [fexp2_of_finite q h, if_neg (by omega), if_pos hfloor]

/-- Settles O58: special values by class, the others by the bracket and the order of `fexp2`. -/
theorem exp2UnitProperties : Obligations.Exp2UnitProperties := by
  intro fl q hq
  refine ⟨fun a h => ?nan, fun a => fexp2_of_inf q, fun a => fexp2_of_large q, fun a => fexp2_of_small q,
    fun a k h hv hlo hhi => ?exact, fun a k h hlo hhi hklo hkhi => ?bracket, pow2Float_above fl,
    fun a b hab => ?mono⟩
  case nan => rwa [fexp2_of_nan q h]
  case exact =>
    rw [fexp2_of_int q h hv hlo hhi]
    exact ⟨rfl, pow2Float_exact ((eulp_le_emin fl).trans hlo) hhi⟩
  case bracket =>
    obtain rfl : ⌊valueOf fl a⌋ = k := Int.floor_eq_iff.2 ⟨hlo.le, hhi⟩
    obtain ⟨hnan, hkey, hkey'⟩ := fexp2_bracket q h hklo hkhi
    have hpow (k : Int) := (isNan_iff_natAbs fl _).2 (pow2Float_key_natAbs_le fl k)
    exact ⟨(fge_iff_sortKey hnan (hpow _)).2 hkey, (fge_iff_sortKey (hpow _) hnan).2 hkey'⟩
  case mono =>
    obtain ⟨hb, ha⟩ := isNan_of_fge hab
    rw [fge_iff_sortKey hb ha] at hab
    exact (fge_iff_sortKey (fexp2_key_nonneg q hb).1 (fexp2_key_nonneg q ha).1).2 (fexp2_mono q ha hb hab)

end Sys2Proof
end

section
/-! PROOFS. The bounds of RCC, the exact split of LOG, and the corner cases of LIT (44_scalar_special.md R141, R145,
R148). -/

namespace Sys2Proof

/-! ### Clamps on keys (R94) -/

section Clamp

variable {fl : Flen} {a b : Comp}

theorem clampLo_of_nan (h : isNan fl a = true) : clampLo fl a b = a := by
  rw [clampLo, if_neg (by rw [(comparisons_of_nan (.inl h)).1]; decide)]

theorem clampHi_of_nan (h : isNan fl a = true) : clampHi fl a b = a := by
  rw [clampHi, fgt, if_neg (by rw [(comparisons_of_nan (.inr h)).1]; decide)]

theorem clampLo_eq (ha : isNan fl a = false) (hb : isNan fl b = false) :
    clampLo fl a b = if sortKey fl a < sortKey fl b then b else a :=
  if_congr (flt_iff_sortKey ha hb) rfl rfl

theorem clampHi_eq (ha : isNan fl a = false) (hb : isNan fl b = false) :
    clampHi fl a b = if sortKey fl b < sortKey fl a then b else a :=
  if_congr (flt_iff_sortKey hb ha) rfl rfl

theorem clampLo_key (ha : isNan fl a = false) (hb : isNan fl b = false) :
    isNan fl (clampLo fl a b) = false ∧ sortKey fl (clampLo fl a b) = max (sortKey fl a) (sortKey fl b) := by
  rw [clampLo_eq ha hb]
  split
  · exact ⟨hb, by omega⟩
  · exact ⟨ha, by omega⟩

theorem clampHi_key (ha : isNan fl a = false) (hb : isNan fl b = false) :
    isNan fl (clampHi fl a b) = false ∧ sortKey fl (clampHi fl a b) = min (sortKey fl a) (sortKey fl b) := by
  rw [clampHi_eq ha hb]
  split
  · exact ⟨hb, by omega⟩
  · exact ⟨ha, by omega⟩

end Clamp

/-! ### RCC (R141) -/

theorem fone_exact (fl : Flen) : isFinite fl (fone fl) = true ∧ valueOf fl (fone fl) = 1 := by
  have hemax := fl.emax_pos
  obtain ⟨hfin, hval⟩ := pow2Float_exact (fl := fl) (k := 0) fl.eulp_nonpos (by omega)
  exact ⟨hfin, hval.trans (zpow_zero 2)⟩

/-- The reciprocal of a component that is not a NaN is no NaN and has its sign. -/
theorem recip_sign {fl : Flen} (q : Comp) {a : Comp} (h : isNan fl a = false) :
    isNan fl (recip fl q a) = false ∧ signOf fl (recip fl q a) = signOf fl a := by
  obtain ⟨hone, hval⟩ := fone_exact fl
  rw [recip]
  split
  case isTrue heq =>
    rw [feq_iff_sortKey h (isNan_of_isFinite hone)] at heq
    have hpos : 0 < sortKey fl a := by
      rw [heq, ← valueOf_pos_iff hone, hval]
      exact one_pos
    exact ⟨isNan_of_isFinite hone, (signOf_pow2Float fl 0).trans ((sortKey_pos_iff fl a).1 hpos).1.symm⟩
  case isFalse =>
    rcases isInf_or_isFinite h with h | h
    · rw [frcp_of_inf q h, signOf_fzero]
      exact ⟨isNan_of_isFinite (isFinite_of_magOf_eq_zero (magOf_fzero _ _)), rfl⟩
    by_cases hzero : magOf fl a = 0
    · rw [frcp_of_zero q hzero, signOf_finf]
      exact ⟨isNan_finf _ _, rfl⟩
    · obtain ⟨r, hle, hr, _⟩ := frcp_of_finite q h hzero
      obtain ⟨hsign, hmag⟩ := signOf_magOf_ofSignMag (signOf fl a) hle
      rw [hr, hsign, isNan, hmag]
      exact ⟨decide_eq_false (not_lt.2 hle), rfl⟩

/-- A key that is not 0 gives sign and magnitude. -/
theorem sign_magOf_of_pos {fl : Flen} {a : Comp} (h : 0 < sortKey fl a) :
    signOf fl a = false ∧ (magOf fl a : Int) = sortKey fl a := by
  have hs := ((sortKey_pos_iff fl a).1 h).1
  rw [sortKey, hs]
  exact ⟨rfl, rfl⟩

theorem sign_magOf_of_neg {fl : Flen} {a : Comp} (h : sortKey fl a < 0) :
    signOf fl a = true ∧ (magOf fl a : Int) = -sortKey fl a := by
  have hs := ((sortKey_neg_iff fl a).1 h).1
  rw [sortKey, hs]
  exact ⟨rfl, (neg_neg _).symm⟩

/-- Settles O42: on keys the two clamps are minimum and maximum, so the result's key lies between the bounds or their
mirrors, by the sign of the reciprocal. -/
theorem rccStaysWithinBounds : Obligations.RccStaysWithinBounds := by
  intro c q a ha hmin hle hmax
  obtain ⟨hrnan, hrsign⟩ := recip_sign (q 0) ha
  have hmaxKey := (isFinite_iff_natAbs c.flen _).1 hmax
  have hmaxNan := isNan_of_isFinite hmax
  have hminNan : isNan c.flen c.rccMin = false := by
    rw [isNan_iff_natAbs]
    omega
  have hnegMin : isNan c.flen (fneg c.flen c.rccMin) = false := by rwa [isNan_fneg]
  have hnegMax : isNan c.flen (fneg c.flen c.rccMax) = false := by rwa [isNan_fneg]
  refine ⟨_, rfl, ?_⟩
  obtain ⟨_, hpos, hneg⟩ := Machine.rccClamp_cases c (q 0) (recip c.flen (q 0) a)
  cases hs : signOf c.flen (recip c.flen (q 0) a) with
  | false =>
    obtain ⟨hlo, hkey⟩ := clampLo_key hrnan hminNan
    obtain ⟨_, hkey'⟩ := clampHi_key hlo hmaxNan
    rw [hpos hrnan hs, isFinite_iff_natAbs, ← hrsign, hs]
    obtain ⟨hsign, hmag⟩ := sign_magOf_of_pos (fl := c.flen)
      (a := clampHi c.flen (clampLo c.flen (recip c.flen (q 0) a) c.rccMin) c.rccMax) (by omega)
    exact ⟨by omega, hsign, by omega, by omega⟩
  | true =>
    obtain ⟨hhi, hkey⟩ := clampHi_key hrnan hnegMin
    obtain ⟨_, hkey'⟩ := clampLo_key hhi hnegMax
    rw [sortKey_fneg] at hkey hkey'
    rw [hneg hrnan hs, isFinite_iff_natAbs, ← hrsign, hs]
    obtain ⟨hsign, hmag⟩ := sign_magOf_of_neg (fl := c.flen)
      (a := clampLo c.flen (clampHi c.flen (recip c.flen (q 0) a) (fneg c.flen c.rccMin)) (fneg c.flen c.rccMax))
      (by omega)
    exact ⟨by omega, hsign, by omega, by omega⟩

/-! ### LOG (R99, R145) -/

theorem logMagVec_of_nan {c : Config} (q : Nat → Comp) {a : Comp} (h : isNan c.flen a = true) :
    logMagVec c q a = ⟨q 0, q 1, q 2, fone c.flen⟩ := by
  rw [logMagVec, unpack_of_isNan h]

theorem logMagVec_of_inf {c : Config} (q : Nat → Comp) {a : Comp} (h : isInf c.flen a = true) :
    logMagVec c q a = ⟨finf c.flen false, fone c.flen, finf c.flen false, fone c.flen⟩ := by
  rw [logMagVec, unpack_of_isInf h]

theorem logMagVec_of_zero {c : Config} (q : Nat → Comp) {a : Comp} (h : magOf c.flen a = 0) :
    logMagVec c q a = ⟨finf c.flen true, fone c.flen, finf c.flen true, fone c.flen⟩ := by
  obtain ⟨m, e, hu, _⟩ := unpack_finite (isFinite_of_magOf_eq_zero h)
  rw [logMagVec, hu]
  exact if_pos ((unpack_fin_eq_zero_iff hu).2 h)

/-- The mantissa of the split is exact, in [1, 2). -/
theorem splitMant_exact {fl : Flen} {m : Nat} (hm : m ≠ 0) (hbits : m < 2 ^ (fl.fracBits + 1)) :
    valueOf fl (splitMant fl m) = (m : ℚ) * 2 ^ (-(Nat.log2 m : Int)) ∧ 1 ≤ valueOf fl (splitMant fl m) ∧
      valueOf fl (splitMant fl m) < 2 := by
  have hlog := log2_le_of_lt_two_pow hbits
  have hemax := fl.emax_pos
  have heulp : fl.eulp ≤ -(fl.fracBits : Int) := by
    rw [Flen.eulp, Flen.emin]
    omega
  obtain ⟨_, hval⟩ := roundFin_exact (fl := fl) false hbits (show fl.eulp ≤ -(Nat.log2 m : Int) by omega) (by omega)
  have hval : valueOf fl (splitMant fl m) = (m : ℚ) * 2 ^ (-(Nat.log2 m : Int)) := by
    rw [splitMant, hval, finValue_eq]
    rfl
  obtain ⟨hlo, hhi, _⟩ := splitExp_spec hm (-(Nat.log2 m : Int))
  have hexp : splitExp m (-(Nat.log2 m : Int)) = 0 := by
    rw [splitExp]
    omega
  rw [hexp, zpow_zero, ← hval] at hlo
  rw [hexp, zero_add, zpow_one, ← hval] at hhi
  exact ⟨hval, hlo, hhi⟩

/-- LOG of a positive finite component: exponent and mantissa split its value exactly. -/
theorem logMagVec_of_positive {c : Config} (q : Nat → Comp) {a : Comp} (h : isFinite c.flen a = true)
    (hne : magOf c.flen a ≠ 0) (hs : signOf c.flen a = false) : ∃ (k : Int) (y : Comp),
    logMagVec c q a = ⟨intFloat c.flen k, y, flog2 c.flen (q 2) a, fone c.flen⟩ ∧
      valueOf c.flen (intFloat c.flen k) = k ∧ 1 ≤ valueOf c.flen y ∧ valueOf c.flen y < 2 ∧
      valueOf c.flen a = valueOf c.flen y * 2 ^ k := by
  obtain ⟨m, e, hu, hbits, _⟩ := unpack_of_isFinite h
  rw [hs] at hu
  have hm : m ≠ 0 := fun h0 => hne ((unpack_fin_eq_zero_iff hu).1 h0)
  obtain ⟨hlo, hhi, _⟩ := splitExp_spec hm e
  rw [← valueOf_of_positive hu] at hlo hhi
  obtain ⟨hkLo, hkHi⟩ := exponent_bounds h hlo hhi
  obtain ⟨hmant, hmant1, hmant2⟩ := splitMant_exact hm hbits
  refine ⟨splitExp m e, splitMant c.flen m, ?_, (exponent_intFloat hkLo (by omega)).2, hmant1, hmant2, ?_⟩
  · rw [logMagVec, hu]
    exact if_neg hm
  · rw [valueOf_of_positive hu, hmant, splitExp, mul_assoc, ← zpow_add₀ two_ne_zero, neg_add_cancel_left]

end Sys2Proof

namespace Sys2Proof.Machine

/-- Settles O44: `exec_writesOnly` at LOG, with the cases of its result. -/
theorem logResult : Obligations.LogResult := by
  intro s d t hs hlog
  dsimp only
  obtain ⟨s', hexec, hwrites⟩ := exec_writesOnly hs hlog rfl
  refine ⟨s', _, hexec, hwrites, ?_⟩
  rw [resultOf_log]
  have hsign := signOf_fabs s.cfg.flen (fetchVector1 s t)
  generalize fabs s.cfg.flen (fetchVector1 s t) = a at hsign ⊢
  cases hnan : isNan s.cfg.flen a with
  | true =>
    rw [logMagVec_of_nan _ hnan]
    refine ⟨rfl, fun _ => ⟨isNan_nanFor s 0, isNan_nanFor s 1, isNan_nanFor s 2⟩, fun h => ?_, fun h => ?_,
      fun h => ?_⟩
    · rw [isNan_of_isFinite (isFinite_of_magOf_eq_zero h)] at hnan
      cases hnan
    · rw [isNan_of_isInf h] at hnan
      cases hnan
    · rw [isNan_of_isFinite h] at hnan
      cases hnan
  | false =>
    rcases isInf_or_isFinite hnan with hinf | hfin
    · have hmag : magOf s.cfg.flen a = s.cfg.flen.infMag := by simpa [isInf] using hinf
      rw [logMagVec_of_inf _ hinf]
      refine ⟨rfl, fun h => absurd h (by decide), fun h => ?_, fun _ => ⟨rfl, rfl, rfl⟩, fun h => ?_⟩
      · exact absurd (hmag.symm.trans h) s.cfg.flen.infMag_pos.ne'
      · rw [isInf_of_isFinite h] at hinf
        cases hinf
    by_cases hzero : magOf s.cfg.flen a = 0
    · rw [logMagVec_of_zero _ hzero]
      refine ⟨rfl, fun h => absurd h (by decide), fun _ => ⟨rfl, rfl, rfl⟩, fun h => ?_, fun _ h => absurd hzero h⟩
      rw [isInf_of_isFinite hfin] at h
      cases h
    · obtain ⟨k, y, hvec, hk, hy1, hy2, hsplit⟩ := logMagVec_of_positive (nanFor s) hfin hzero hsign
      rw [hvec]
      refine ⟨rfl, fun h => absurd h (by decide), fun h => absurd h hzero, fun h => ?_,
        fun _ _ => ⟨rfl, k, rfl, hk, hy1, hy2, hsplit⟩⟩
      rw [isInf_of_isFinite hfin] at h
      cases h

end Sys2Proof.Machine

namespace Sys2Proof

/-! ### The exponent bound of LIT (R100) -/

/-- `LIT_W_MAX` for the literal epsilon of FLEN = 32. -/
theorem litWMax_f32 (q : Comp) : fsub .f32 q (intFloat .f32 128) Config.default32.litEps = 0x42FFFFFF := by
  rfl

theorem litWMax_f64 (q : Comp) : fsub .f64 q (intFloat .f64 128) Config.default64.litEps = 0x405FFFFFD60E94EE := by
  rfl

/-- The epsilons for which the corner cases of LIT are stated. -/
def LitEpsLiteral (c : Config) : Prop :=
  c.flen = .f32 ∧ c.litEps = Config.default32.litEps ∨ c.flen = .f64 ∧ c.litEps = Config.default64.litEps

/-- `LIT_W_MAX` is a positive finite float, whatever NaN is at hand. -/
theorem litWMax_spec {c : Config} (hc : LitEpsLiteral c) (q : Comp) :
    isFinite c.flen (litWMax c q) = true ∧ 0 < sortKey c.flen (litWMax c q) := by
  rcases hc with ⟨hfl, heps⟩ | ⟨hfl, heps⟩
  · rw [litWMax, heps, hfl, litWMax_f32]
    decide
  · rw [litWMax, heps, hfl, litWMax_f64]
    decide

/-! ### The clamped exponent of LIT -/

theorem litW_of_nan (c : Config) (q : Comp) {w : Comp} (h : isNan c.flen w = true) : litW c q w = w := by
  rw [litW, clampLo_of_nan h, clampHi_of_nan h]

/-- An exponent that is not a NaN is clamped into the bounds: the result is finite. -/
theorem litW_key {c : Config} (hc : LitEpsLiteral c) (q : Comp) {w : Comp} (h : isNan c.flen w = false) :
    isFinite c.flen (litW c q w) = true ∧ sortKey c.flen (litW c q w) =
      min (max (sortKey c.flen w) (-sortKey c.flen (litWMax c q))) (sortKey c.flen (litWMax c q)) := by
  obtain ⟨hfin, hpos⟩ := litWMax_spec hc q
  have hmax := isNan_of_isFinite hfin
  obtain ⟨hlo, hkey⟩ := clampLo_key h (show isNan c.flen (fneg c.flen (litWMax c q)) = false by rwa [isNan_fneg])
  obtain ⟨_, hkey'⟩ := clampHi_key hlo hmax
  rw [sortKey_fneg] at hkey
  have hbound := (isFinite_iff_natAbs c.flen _).1 hfin
  have hw : sortKey c.flen (litW c q w) =
      min (max (sortKey c.flen w) (-sortKey c.flen (litWMax c q))) (sortKey c.flen (litWMax c q)) := by
    rw [litW, hkey', hkey]
  refine ⟨?_, hw⟩
  rw [isFinite_iff_natAbs, hw]
  omega

theorem litW_of_large {c : Config} (hc : LitEpsLiteral c) (q : Comp) {w : Comp}
    (h : fgt c.flen w (litWMax c q) = true) : litW c q w = litWMax c q := by
  obtain ⟨_, hpos⟩ := litWMax_spec hc q
  obtain ⟨hmax, hw⟩ := isNan_of_flt h
  have hlt := (flt_iff_sortKey hmax hw).1 h
  have hlo : clampLo c.flen w (fneg c.flen (litWMax c q)) = w := by
    rw [clampLo_eq hw (by rwa [isNan_fneg]), sortKey_fneg, if_neg (by omega)]
  rw [litW, hlo, clampHi_eq hw hmax, if_pos hlt]

theorem litW_of_small {c : Config} (hc : LitEpsLiteral c) (q : Comp) {w : Comp}
    (h : flt c.flen w (fneg c.flen (litWMax c q)) = true) : litW c q w = fneg c.flen (litWMax c q) := by
  obtain ⟨_, hpos⟩ := litWMax_spec hc q
  obtain ⟨hw, hneg⟩ := isNan_of_flt h
  have hlt := (flt_iff_sortKey hw hneg).1 h
  have hmax : isNan c.flen (litWMax c q) = false := by rwa [isNan_fneg] at hneg
  rw [litW, clampLo_eq hw hneg, if_pos hlt, clampHi_eq hneg hmax, sortKey_fneg, if_neg (by omega)]

/-! ### The clamps at zero -/

theorem clampLo_zero_of_nonneg {fl : Flen} {a : Comp} (h : isNan fl a = false) (hk : 0 ≤ sortKey fl a) :
    clampLo fl a 0 = a := by
  rw [clampLo_eq h (isNan_zero fl), sortKey_zero, if_neg (not_lt.2 hk)]

theorem clampLo_zero_of_neg {fl : Flen} {a : Comp} (h : isNan fl a = false) (hk : sortKey fl a < 0) :
    clampLo fl a 0 = 0 := by
  rw [clampLo_eq h (isNan_zero fl), sortKey_zero, if_pos hk]

theorem fgt_zero_iff {fl : Flen} {a : Comp} (h : isNan fl a = false) : fgt fl a 0 = true ↔ 0 < sortKey fl a := by
  rw [fgt, flt_iff_sortKey (isNan_zero fl) h, sortKey_zero]

theorem flt_zero_iff {fl : Flen} {a : Comp} (h : isNan fl a = false) : flt fl a 0 = true ↔ sortKey fl a < 0 := by
  rw [flt_iff_sortKey h (isNan_zero fl), sortKey_zero]

/-! ### The rows of LIT by its first component -/

/-- The product whose power LIT takes. -/
def litProduct (c : Config) (q : Nat → Comp) (t : Vec4) : Comp :=
  fmul c.flen (q 2) (litW c (q 2) t.w) (flog2 c.flen (q 2) (clampLo c.flen t.y 0))

theorem litVec_eq (c : Config) (q : Nat → Comp) (t : Vec4) :
    litVec c q t = ⟨fone c.flen, clampLo c.flen t.x 0,
      if fgt c.flen (clampLo c.flen t.x 0) 0 = true then fexp2 c.flen (q 2) (litProduct c q t) else 0,
      fone c.flen⟩ := rfl

theorem litVec_of_negative {c : Config} (q : Nat → Comp) {t : Vec4} (h : flt c.flen t.x 0 = true) :
    litVec c q t = ⟨fone c.flen, 0, 0, fone c.flen⟩ := by
  obtain ⟨hx, h0⟩ := isNan_of_flt h
  rw [litVec_eq, clampLo_zero_of_neg hx ((flt_zero_iff hx).1 h), if_neg]
  rw [fgt_zero_iff h0, sortKey_zero]
  exact lt_irrefl 0

theorem litVec_of_nan_or_zero {c : Config} (q : Nat → Comp) {t : Vec4}
    (h : isNan c.flen t.x = true ∨ sortKey c.flen t.x = 0) :
    litVec c q t = ⟨fone c.flen, t.x, 0, fone c.flen⟩ := by
  have hclamp : clampLo c.flen t.x 0 = t.x ∧ ¬ fgt c.flen t.x 0 = true := by
    cases hx : isNan c.flen t.x with
    | true =>
      refine ⟨clampLo_of_nan hx, ?_⟩
      rw [fgt, (comparisons_of_nan (.inr hx)).1]
      decide
    | false =>
      have hkey := h.resolve_left (by simp [hx])
      rw [fgt_zero_iff hx, hkey]
      exact ⟨clampLo_zero_of_nonneg hx hkey.ge, lt_irrefl 0⟩
  obtain ⟨hself, hgt⟩ := hclamp
  rw [litVec_eq, hself, if_neg hgt]

theorem litVec_of_positive {c : Config} (q : Nat → Comp) {t : Vec4} (h : fgt c.flen t.x 0 = true) :
    litVec c q t = ⟨fone c.flen, t.x, fexp2 c.flen (q 2) (litProduct c q t), fone c.flen⟩ := by
  obtain ⟨_, hx⟩ := isNan_of_flt h
  rw [litVec_eq, clampLo_zero_of_nonneg hx ((fgt_zero_iff hx).1 h).le, if_pos h]

/-! ### Exact products -/

theorem valueOf_eq_sign_abs {fl : Flen} {a : Comp} (h : isFinite fl a = true) :
    valueOf fl a = if signOf fl a = true then -|valueOf fl a| else |valueOf fl a| := by
  rw [abs_valueOf_of_isFinite h, valueOf_of_isFinite h]

/-- A product whose value is that of a float is exact. -/
theorem fmul_exact {fl : Flen} (q : Comp) {a b x : Comp} (ha : isFinite fl a = true) (hb : isFinite fl b = true)
    (hx : isFinite fl x = true) (hv : valueOf fl a * valueOf fl b = valueOf fl x) :
    isFinite fl (fmul fl q a b) = true ∧ valueOf fl (fmul fl q a b) = valueOf fl x := by
  obtain ⟨_, _, _, hspec⟩ := mulRoundsExactProduct fl q a b
  obtain ⟨hsign, hnear⟩ := hspec ha hb
  have hxmag : magOf fl x < fl.infMag := by simpa [isFinite] using hx
  have habs : |((valueOf fl a * valueOf fl b : ℚ) : ℝ)| = magReal fl (magOf fl x) := by
    rw [hv, ← Rat.cast_abs, abs_valueOf_of_isFinite hx, magReal]
  rw [habs] at hnear
  have hmag : magOf fl (fmul fl q a b) = magOf fl x := hnear.eq_of_value hxmag.le
  have hfin : isFinite fl (fmul fl q a b) = true := by
    rw [isFinite, hmag]
    exact decide_eq_true hxmag
  refine ⟨hfin, ?_⟩
  have habs' : |valueOf fl (fmul fl q a b)| = |valueOf fl a| * |valueOf fl b| := by
    rw [abs_valueOf_of_isFinite hfin, hmag, ← abs_valueOf_of_isFinite hx, ← hv, abs_mul]
  rw [valueOf_eq_sign_abs hfin, habs', hsign, ← hv, valueOf_eq_sign_abs ha, valueOf_eq_sign_abs hb]
  cases signOf fl a <;> cases signOf fl b <;> simp

/-! ### The rows of LIT by the power -/

/-- The power at an infinite logarithm, by the signs. -/
theorem fexp2_fmul_finf {fl : Flen} {q w : Comp} (hq : isNan fl q = true) (hw : isNan fl w = false) (n : Bool) :
    (sortKey fl w = 0 → fexp2 fl q (fmul fl q w (finf fl n)) = q) ∧
    (0 < sortKey fl w → fexp2 fl q (fmul fl q w (finf fl n)) = if n = true then 0 else finf fl false) ∧
    (sortKey fl w < 0 → fexp2 fl q (fmul fl q w (finf fl n)) = if n = true then finf fl false else 0) := by
  have hmul := fmul_of_inf_right q (isInf_finf fl n) hw
  rw [signOf_finf] at hmul
  refine ⟨fun h => ?_, fun h => ?_, fun h => ?_⟩
  · have hmag : magOf fl w = 0 := by rw [← natAbs_sortKey, h, Int.natAbs_zero]
    rw [hmul, if_pos hmag, fexp2_of_nan q hq]
  · obtain ⟨hs, hmag⟩ := (sortKey_pos_iff fl w).1 h
    rw [hmul, if_neg hmag, hs, fexp2_of_inf q (isInf_finf fl _), signOf_finf]
    cases n <;> rfl
  · obtain ⟨hs, hmag⟩ := (sortKey_neg_iff fl w).1 h
    rw [hmul, if_neg hmag, hs, fexp2_of_inf q (isInf_finf fl _), signOf_finf]
    cases n <;> rfl

section Power

variable {c : Config} (hc : LitEpsLiteral c) {q : Nat → Comp} (hq : isNan c.flen (q 2) = true) {t : Vec4}

include hc hq in
/-- The power where the logarithm is infinite, by the sign of the exponent before the clamp. -/
theorem litPower_of_infinite_log {n : Bool} (hlog : flog2 c.flen (q 2) (clampLo c.flen t.y 0) = finf c.flen n) :
    (fgt c.flen t.w 0 = true → fexp2 c.flen (q 2) (litProduct c q t) = if n = true then 0 else finf c.flen false) ∧
    (flt c.flen t.w 0 = true → fexp2 c.flen (q 2) (litProduct c q t) = if n = true then finf c.flen false else 0) ∧
    (isNan c.flen t.w = false → sortKey c.flen t.w = 0 → fexp2 c.flen (q 2) (litProduct c q t) = q 2) := by
  obtain ⟨_, hmax⟩ := litWMax_spec hc (q 2)
  rw [litProduct, hlog]
  refine ⟨fun h => ?_, fun h => ?_, fun hw h => ?_⟩
  · obtain ⟨_, hw⟩ := isNan_of_flt h
    obtain ⟨hfin, hkey⟩ := litW_key hc (q 2) hw
    have hpos := (fgt_zero_iff hw).1 h
    obtain ⟨_, hpower, _⟩ := fexp2_fmul_finf hq (isNan_of_isFinite hfin) n
    exact hpower (by omega)
  · obtain ⟨hw, _⟩ := isNan_of_flt h
    obtain ⟨hfin, hkey⟩ := litW_key hc (q 2) hw
    have hneg := (flt_zero_iff hw).1 h
    obtain ⟨_, _, hpower⟩ := fexp2_fmul_finf hq (isNan_of_isFinite hfin) n
    exact hpower (by omega)
  · obtain ⟨hfin, hkey⟩ := litW_key hc (q 2) hw
    obtain ⟨hzero, _, _⟩ := fexp2_fmul_finf hq (isNan_of_isFinite hfin) n
    exact hzero (by omega)

omit hq in
include hc in
/-- The power where the product of the exponent and the logarithm is an integer in the range of exponents. -/
theorem litPower_of_exact {k n : Int} (hy : isFinite c.flen t.y = true) (hyv : valueOf c.flen t.y = (2 : ℚ) ^ k)
    (hw : isNan c.flen (litW c (q 2) t.w) = false) (hn : valueOf c.flen (litW c (q 2) t.w) * k = n)
    (hlo : c.flen.emin ≤ n) (hhi : n ≤ c.flen.emax) :
    fexp2 c.flen (q 2) (litProduct c q t) = pow2Float c.flen n := by
  have hwt : isNan c.flen t.w = false := by
    by_contra hnan
    rw [Bool.not_eq_false] at hnan
    rw [litW_of_nan c (q 2) hnan, hnan] at hw
    cases hw
  obtain ⟨hwfin, _⟩ := litW_key hc (q 2) hwt
  have hypos : 0 < sortKey c.flen t.y := by
    rw [← valueOf_pos_iff hy, hyv]
    positivity
  have hyhi : valueOf c.flen t.y < (2 : ℚ) ^ (k + 1) := by
    rw [hyv]
    exact zpow_lt_zpow_right₀ one_lt_two (by omega)
  obtain ⟨hkLo, hkHi⟩ := exponent_bounds hy hyv.ge hyhi
  obtain ⟨hkfin, hkval⟩ := exponent_intFloat (fl := c.flen) hkLo (by omega)
  obtain ⟨hnfin, hnval⟩ := exponent_intFloat (fl := c.flen) ((eulp_le_emin c.flen).trans hlo) (by omega)
  have hprod : litProduct c q t = fmul c.flen (q 2) (litW c (q 2) t.w) (intFloat c.flen k) := by
    rw [litProduct, clampLo_zero_of_nonneg (isNan_of_isFinite hy) hypos.le, flog2_of_two_zpow _ hy hyv]
  obtain ⟨hpfin, hpval⟩ := fmul_exact (q 2) hwfin hkfin hnfin (by rw [hkval, hnval, hn])
  rw [hprod]
  exact fexp2_of_int _ hpfin (hpval.trans hnval) hlo hhi

include hq in
/-- A NaN among the operands of the power makes it the NaN at hand. -/
theorem litPower_of_nan (h : isNan c.flen t.y = true ∨ isNan c.flen t.w = true) :
    fexp2 c.flen (q 2) (litProduct c q t) = q 2 := by
  have hprod : litProduct c q t = q 2 := by
    rw [litProduct]
    rcases h with h | h
    · rw [clampLo_of_nan h, flog2_of_nan _ h]
      exact fmul_of_nan_right _ _ hq
    · rw [litW_of_nan c (q 2) h]
      exact fmul_of_nan_left _ _ h
  rw [hprod, fexp2_of_nan _ hq]

end Power

/-- The logarithm LIT takes of an operand that is not positive. -/
theorem flog2_clampLo_of_nonpos {fl : Flen} (q : Comp) {y : Comp} (h : isNan fl y = false) (hk : sortKey fl y ≤ 0) :
    flog2 fl q (clampLo fl y 0) = finf fl true := by
  rcases hk.lt_or_eq with hlt | heq
  · rw [clampLo_zero_of_neg h hlt]
    exact flog2_of_zero q (magOf_fzero fl false)
  · rw [clampLo_zero_of_nonneg h heq.ge]
    exact flog2_of_zero q (by rw [← natAbs_sortKey, heq, Int.natAbs_zero])

/-- The logarithm LIT takes of positive infinity. -/
theorem flog2_clampLo_of_inf {fl : Flen} (q : Comp) {y : Comp} (h : isInf fl y = true) (hs : signOf fl y = false) :
    flog2 fl q (clampLo fl y 0) = finf fl false := by
  have hkey : 0 ≤ sortKey fl y := by
    rw [sortKey_of_isInf h, hs]
    exact Int.natCast_nonneg _
  rw [clampLo_zero_of_nonneg (isNan_of_isInf h) hkey, flog2_of_inf q h, hs]
  rfl

/-- A component equal to 1.0 is finite and has the value 2^0. -/
theorem value_of_feq_one {fl : Flen} {y : Comp} (h : feq fl y (fone fl) = true) :
    isFinite fl y = true ∧ valueOf fl y = (2 : ℚ) ^ (0 : Int) := by
  obtain ⟨hone, hval⟩ := fone_exact fl
  have hy : isNan fl y = false := by
    by_contra hnan
    rw [Bool.not_eq_false] at hnan
    rw [(comparisons_of_nan (.inl hnan)).2.1] at h
    cases h
  have hkey := (feq_iff_sortKey hy (isNan_of_isFinite hone)).1 h
  have hfin : isFinite fl y = true := by
    rw [isFinite_iff_natAbs, hkey, ← isFinite_iff_natAbs]
    exact hone
  refine ⟨hfin, ?_⟩
  rw [valueOf_eq_keyValue hfin, hkey, ← valueOf_eq_keyValue hone, hval, zpow_zero]

/-- Settles O46: the rows by the first component, then the power by its logarithm. -/
theorem litCornerCases : Obligations.LitCornerCases := by
  intro c q t hq hc
  have hc : LitEpsLiteral c := hc
  have hrange : c.flen.emin ≤ 0 ∧ 0 ≤ c.flen.emax := by cases c.flen <;> decide
  refine ⟨litW_of_large hc _, litW_of_small hc _, litVec_of_negative q, litVec_of_nan_or_zero q, fun hx => ?_⟩
  rw [litVec_of_positive q hx]
  refine ⟨rfl, rfl, rfl, fun hy hk => ?nonpos, fun hy hs => ?inf, fun hw hy => ?one, litPower_of_nan hq,
    fexp2_of_large _, fexp2_of_small _, fun k n hy hyv hw hn hlo hhi => litPower_of_exact hc hy hyv hw hn hlo hhi⟩
  case nonpos => exact litPower_of_infinite_log hc hq (flog2_clampLo_of_nonpos _ hy hk)
  case inf => exact litPower_of_infinite_log hc hq (flog2_clampLo_of_inf _ hy hs)
  case one =>
    obtain ⟨hfin, hval⟩ := value_of_feq_one hy
    obtain ⟨hwfin, _⟩ := litW_key hc (q 2) hw
    exact litPower_of_exact (n := 0) hc hfin hval (isNan_of_isFinite hwfin) (by simp) hrange.1 hrange.2

end Sys2Proof
end
